-- ==== Sys2Proof/Word.lean ====
section
/-! DEFINITION. The one data width of the machine: a byte. A cell, a character code and a transferred byte are
all unsigned 8-bit values (10_state.md R11, 30_encoding.md R50, 20_memory.md R38). -/
namespace Sys2Proof

/-- An unsigned 8-bit value, 0..255 (10_state.md R12; bit `k` has weight `2^k`, 00_scope.md R6). -/
abbrev Byte := BitVec 8

end Sys2Proof
end

