-- ==== Sys2Proof/Config.lean ====
section
/-! DEFINITION. What a build fixes and what the environment decides: the two open parameters of 00_scope.md R5,
and the free values (no body: nothing in Lean can evaluate them). -/
namespace Sys2Proof

/-- A capacity the spec leaves open: `unbounded` (the reference design) or a number (00_scope.md R5; D5, D6). -/
inductive Capacity where
  | unbounded
  | bounded (n : Nat)
deriving DecidableEq, Repr

/-- Does a size fit in a capacity? -/
def Capacity.holds : Capacity → Nat → Bool
  | .unbounded, _ => true
  | .bounded n, k => decide (k ≤ n)

/-- The open parameters of the machine (00_scope.md R5): fixed for one machine, written by no step. -/
structure BuildParams where
  /-- `LOOP_STACK_DEPTH`: unbounded, or a number N ≥ 1 (D6). -/
  loopStackDepth : Capacity
  /-- `PROG_LEN_MAX`: a longer program is refused by the host at load, not by the core (D5). -/
  progLenMax     : Capacity
deriving DecidableEq, Repr

/-- The reference design: both parameters unbounded (92_eei_decisions.md, "Open parameters in one place").
DESIGN CHOICE that State.reset is the reference build (log entry 1), unsafe for a bounded build. -/
def BuildParams.reference : BuildParams := { loopStackDepth := .unbounded, progLenMax := .unbounded }

/-- The values a build may take: `LOOP_STACK_DEPTH` is unbounded or N ≥ 1 (00_scope.md R5). -/
def BuildParams.legal (b : BuildParams) : Bool := b.loopStackDepth != .bounded 0

/-- `PC_BITS`: the smallest width that holds `PROG_LEN_MAX` (00_scope.md R5); none when the parameter is unbounded
(the Program Counter is then an unbounded natural number, 10_state.md R14). -/
def BuildParams.pcBits (b : BuildParams) : Option Nat :=
  match b.progLenMax with
  | .unbounded => none
  | .bounded n => some (if n = 0 then 0 else n.log2 + 1)

/-- The three answers of the input source to one `InPull()` (20_memory.md R36). -/
inductive InAnswer where
  /-- `Byte(b)`: the byte is now consumed. -/
  | byte (b : Byte)
  /-- `NotReady`: a live source with no byte available yet; nothing is consumed. -/
  | notReady
  /-- `Exhausted`: a finite source at its end, for good; nothing is consumed. -/
  | exhausted
deriving DecidableEq, Repr, Inhabited

/-- FREE VALUE: the answer a live source gives to its request number `n`, once its script has run out. The input
oracle is unconstrained (93_implementation_defined.md U14; log entry 2), safe. -/
opaque Config.liveAnswer : Nat → InAnswer

/-- FREE VALUE: the code a host presents a character of code 256 or more as (30_encoding.md R55: "some one code that
is not among the eight"; log entry 11), safe. -/
opaque Config.wideCharCode : Nat → Byte

end Sys2Proof
end

