-- ==== Sys2Proof/Machine/State.lean ====
section
/-! DEFINITION. The state of the Tape Machine and of its environment, as plain data (10_state.md R10, R19 to R23),
the reasons a step can stop, and the state after reset (R25). -/
namespace Sys2Proof.Machine

/-- The Tape as a list of (cell index, value) pairs: indices strictly rising, no entry equal to what an unlisted cell
reads as (Memory.wf, in Ops). -/
abbrev Memory := List Host.Cell

/-- The Data Pointer: a number bounded by 30000, so the codes 30000 to 32767 of a 15-bit register do not exist
(10_state.md R13; D4, U12). -/
abbrev DataPointer := Fin 30000

/-- The Loop Stack: positions bottom to top, as the spec writes it; the top is the LAST entry (10_state.md R15). -/
abbrev LoopStack := List Nat

/-- STATUS (10_state.md R19). Code 3 is never taken and has no constructor (U12). -/
inductive Status where
  | running
  | halted
  | faulted
deriving DecidableEq, Repr

/-- FAULT_KIND (10_state.md R20, 60_exceptions.md R110). -/
inductive FaultKind where
  /-- No fault taken in this run. -/
  | none
  /-- CLOSE with an empty Loop Stack (R111). -/
  | malformedProgram
  /-- IN on an exhausted source (R112). -/
  | inputExhausted
  /-- OPEN on a full bounded Loop Stack (R113). -/
  | nestingLimitExceeded
deriving DecidableEq, Repr

/-- The input source (10_state.md R23, 20_memory.md R36). -/
inductive InputSource where
  /-- A pre-supplied buffer: the bytes not yet consumed. It never answers NotReady. -/
  | buffer (unread : List Byte)
  /-- A live stream: the answers it will give, in order, and after them the free answers of Config.liveAnswer, of
  which `draws` have been taken. The script and the counter are the MODEL'S own (log entry 2). -/
  | live (script : List InAnswer) (draws : Nat)
deriving DecidableEq, Repr

/-- The machine and its environment. -/
structure State where
  /-- LOOP_STACK_DEPTH and PROG_LEN_MAX: fixed for one machine, written by no step (00_scope.md R5). -/
  build     : BuildParams
  /-- PROG, the instruction stream: immutable during a run (10_state.md R23). Its length is PROG_LEN (R22). -/
  prog      : List Byte
  /-- The Tape (R11). -/
  tape      : Memory
  /-- The Data Pointer (R13). -/
  dp        : DataPointer
  /-- The Program Counter (R14). -/
  pc        : Nat
  /-- The Loop Stack (R15). -/
  ls        : LoopStack
  /-- STATUS (R19). -/
  status    : Status
  /-- FAULT_KIND (R20). -/
  faultKind : FaultKind
  /-- FAULT_PC (R21). -/
  faultPc   : Nat
  /-- IN: the input source (R23). -/
  input     : InputSource
  /-- The bytes consumed from IN so far, in order (70_reset_and_hazards.md R134, 00_scope.md R8; log entry 12). -/
  pulled    : List Byte
  /-- OUT: the bytes pushed so far, in push order (R23). -/
  output    : List Byte
deriving DecidableEq, Repr

/-- PROG_LEN, `L`: the length of the instruction stream (10_state.md R22; log entry 13). -/
def State.progLen (s : State) : Nat := s.prog.length

/-- Why no step is taken. The three faults of 60_exceptions.md R110 are NOT here: taking one is a next state. -/
inductive Fault where
  /-- Raised by `step` alone, when STATUS is HALTED: no step exists (40_step_cycle.md R65). Safe. -/
  | runHalted
  /-- Raised by `step` alone, when STATUS is FAULTED: no step exists (60_exceptions.md R118). It repeats the recorded
  kind and position. Safe. -/
  | runFaulted (kind : FaultKind) (pc : Nat)
deriving DecidableEq, Repr

/-- Why an instruction has no meaning. -/
inductive Refusal where
  /-- Raised by an arm of `exec` for an instruction that has no meaning yet. Every instruction has one, so no step
  raises it. Safe. -/
  | notModelled (mnemonic : String)
deriving DecidableEq, Repr

/-- The state after reset (10_state.md R25, 70_reset_and_hazards.md R130). The program and the input source are
parameters of a run, which the host places before reset: here none is placed (log entry 3), and the build is the
reference design (log entry 1). -/
def State.reset : State where
  build     := .reference
  prog      := []
  tape      := []
  dp        := ⟨0, by decide⟩
  pc        := 0
  ls        := []
  status    := .running
  faultKind := .none
  faultPc   := 0
  input     := .buffer []
  pulled    := []
  output    := []

end Sys2Proof.Machine
end

