-- ==== Sys2Proof/Machine/Ops.lean ====
section
/-! DEFINITION. The named operations over the machine's five spaces (20_memory.md R30): tape, instruction stream,
Loop Stack, input, output; the Program Counter; the halt transition and fault entry. Every instruction's meaning is
made of these. -/
namespace Sys2Proof.Machine

/-! ### The Tape (20_memory.md R32 to R34) -/

/-- What a cell that is not listed reads as: the reset contents, 0 (10_state.md R25, 70_reset_and_hazards.md R131). -/
def Memory.unlisted : Byte := 0#8

/-- `MemRead(a, 1)`: one cell (20_memory.md R33). -/
def Memory.read : Memory → Nat → Byte
  | [], _ => Memory.unlisted
  | (k, v) :: rest, a => if k = a then v else Memory.read rest a

/-- Put an entry before the first entry of a higher index. -/
def Memory.insert (a : Nat) (v : Byte) : Memory → Memory
  | [] => [(a, v)]
  | (k, w) :: rest => if a < k then (a, v) :: (k, w) :: rest else (k, w) :: Memory.insert a v rest

/-- Forget what is listed for a cell. -/
def Memory.erase (a : Nat) (m : Memory) : Memory := m.filter fun c => c.1 != a

/-- `MemWrite(a, 1, v)`: one cell (20_memory.md R33). Writing what an unlisted cell reads as removes the entry. -/
def Memory.write (m : Memory) (a : Nat) (v : Byte) : Memory :=
  if v = Memory.unlisted then Memory.erase a m else Memory.insert a v (Memory.erase a m)

/-- The canonical form: indices strictly rising and below 30000, no entry equal to what an unlisted cell reads as. -/
abbrev Memory.wf (m : Memory) : Prop :=
  m.Pairwise (fun c d => c.1 < d.1) ∧ ∀ c ∈ m, c.1 < 30000 ∧ c.2 ≠ Memory.unlisted

/-- `tape <- m`. -/
def State.setTape (s : State) (m : Memory) : State := { s with tape := m }

/-- `dp <- d`. -/
def State.setDp (s : State) (d : DataPointer) : State := { s with dp := d }

/-! ### The instruction stream and the Program Counter -/

/-- `IFetch(pc)`: the character at `pc`; none when `pc ≥ L`, where the machine never fetches (20_memory.md R31). -/
def State.fetch (s : State) : Option Byte := s.prog[s.pc]?

/-- `pc <- target`. -/
def State.jump (s : State) (target : Nat) : State := { s with pc := target }

/-- `pc <- pc + 1`: the advance of every instruction that completes, but for a looping CLOSE (40_step_cycle.md R69). -/
def State.advance (s : State) : State := s.jump (s.pc + 1)

/-! ### The Loop Stack: last in, first out (10_state.md R15, 20_memory.md R35) -/

/-- `push(ls, p)` appends. -/
def LoopStack.push (l : LoopStack) (p : Nat) : LoopStack := l ++ [p]

/-- `top(ls)`: the last-pushed entry, none when the stack is empty. -/
def LoopStack.top? (l : LoopStack) : Option Nat := l.getLast?

/-- `pop(ls)` removes `top(ls)`. -/
def LoopStack.pop (l : LoopStack) : LoopStack := l.dropLast

/-- `depth(ls)`. -/
def LoopStack.depth (l : LoopStack) : Nat := l.length

/-- `depth(ls) = LOOP_STACK_DEPTH`: never true when the stack is unbounded (44_loop_control.md R93, R94). -/
def LoopStack.full (l : LoopStack) : Capacity → Bool
  | .unbounded => false
  | .bounded n => decide (LoopStack.depth l = n)

/-- `ls <- l`. -/
def State.setLs (s : State) (l : LoopStack) : State := { s with ls := l }

/-! ### Input and output (20_memory.md R36, R37) -/

/-- `InPull()`: the source's answer, and the source after it. `Exhausted` is for good: the source does not move. A
live source moves past a `NotReady`, so that it may answer otherwise next time (log entry 2). -/
def InputSource.pull : InputSource → InAnswer × InputSource
  | .buffer [] => (.exhausted, .buffer [])
  | .buffer (b :: rest) => (.byte b, .buffer rest)
  | .live (.byte b :: rest) n => (.byte b, .live rest n)
  | .live (.notReady :: rest) n => (.notReady, .live rest n)
  | .live (.exhausted :: rest) n => (.exhausted, .live (.exhausted :: rest) n)
  | .live [] n =>
    match Config.liveAnswer n with
    | .byte b => (.byte b, .live [] (n + 1))
    | .notReady => (.notReady, .live [] (n + 1))
    | .exhausted => (.exhausted, .live [] n)

/-- The source after an `InPull()` that consumed nothing. -/
def State.setInput (s : State) (i : InputSource) : State := { s with input := i }

/-- The source after an `InPull()` that consumed the byte `b`. -/
def State.consume (s : State) (b : Byte) (i : InputSource) : State :=
  { s with input := i, pulled := s.pulled ++ [b] }

/-- `OutPush(v)`: append one byte; it always succeeds (20_memory.md R37, 43_io.md R89; log entry 6). -/
def State.outPush (s : State) (v : Byte) : State := { s with output := s.output ++ [v] }

/-! ### The ends of a run -/

/-- The halt transition: STATUS <- HALTED and nothing else (40_step_cycle.md R66, R67). -/
def State.halt (s : State) : State := { s with status := .halted }

/-- Fault entry, `raise K(pc)`: STATUS, FAULT_KIND and FAULT_PC are written and nothing else (60_exceptions.md R115,
R116). There is NO return from a fault: only reset leaves FAULTED (R118). -/
def State.raise (s : State) (k : FaultKind) : State :=
  { s with status := .faulted, faultKind := k, faultPc := s.pc }

end Sys2Proof.Machine
end

