-- ==== Sys2Proof/Machine/Operands.lean ====
section
/-! DEFINITION. The implicit operands (30_encoding.md R53): the current cell, and the Data Pointer with its
modulo-30000 step; and the two arithmetic functions of the modulo_8bit_alu. -/
namespace Sys2Proof.Machine

/-- The current cell, `tape[dp]` (20_memory.md R33: the one addressing mode). -/
def State.cell (s : State) : Byte := Memory.read s.tape s.dp.val

/-- `tape[dp] <- v`. -/
def State.setCell (s : State) (v : Byte) : State := s.setTape (Memory.write s.tape s.dp.val v)

/-- `(v + 1) mod 256` (41_cell_arithmetic.md R77). -/
def aluInc (v : Byte) : Byte := v + 1#8

/-- `(v - 1) mod 256` (41_cell_arithmetic.md R77). -/
def aluDec (v : Byte) : Byte := v - 1#8

/-- RIGHT's pointer step: by comparison, not by overflow (42_pointer_movement.md R82). -/
def pointerRight (d : DataPointer) : DataPointer :=
  if h : d.val = 29999 then ⟨0, by decide⟩ else ⟨d.val + 1, by omega⟩

/-- LEFT's pointer step: by comparison, not by overflow (42_pointer_movement.md R82). -/
def pointerLeft (d : DataPointer) : DataPointer :=
  if d.val = 0 then ⟨29999, by decide⟩ else ⟨d.val - 1, by omega⟩

end Sys2Proof.Machine
end

