-- ==== Sys2Proof/Machine/CellArithmetic.lean ====
section
/-! DEFINITION. Cell arithmetic: INC and DEC (spec/41_cell_arithmetic.md). -/
namespace Sys2Proof.Machine

/-- INC `+` (R75). -/
def execInc (s : State) : Host.Outcome State Fault Refusal :=
  .next (s.setCell (aluInc s.cell)).advance

/-- DEC `-` (R76). -/
def execDec (s : State) : Host.Outcome State Fault Refusal :=
  .next (s.setCell (aluDec s.cell)).advance

end Sys2Proof.Machine
end

