-- ==== Sys2Proof/Machine/InputOutput.lean ====
section
/-! DEFINITION. Input and output: OUT and IN (spec/43_io.md). -/
namespace Sys2Proof.Machine

/-- OUT `.` (R85): exactly one byte, the current cell. -/
def execOutput (s : State) : Host.Outcome State Fault Refusal :=
  .next (s.outPush s.cell).advance

/-- IN `,`: one `InPull()`. A byte is stored (R86); `NotReady` is a stall, in which only the environment's schedule
moves (R87; log entry 2); `Exhausted` raises InputExhausted (R88). -/
def execInput (s : State) : Host.Outcome State Fault Refusal :=
  match s.input.pull with
  | (.byte b, src) => .next ((s.consume b src).setCell b).advance
  | (.notReady, src) => .next (s.setInput src)
  | (.exhausted, _) => .next (s.raise .inputExhausted)

end Sys2Proof.Machine
end

