-- ==== Sys2Proof/Machine/Flags.lean ====
section
/-! DEFINITION. There are no stored flags (10_state.md R18). The machine tests one condition, computed from the current
cell in the step that uses it and kept nowhere. -/
namespace Sys2Proof.Machine

/-- The zero test of the modulo_8bit_alu (41_cell_arithmetic.md R77). -/
def aluIsZero (v : Byte) : Bool := v == 0#8

/-- "if current cell is 0", the test CLOSE makes (44_loop_control.md R95, R96). -/
def State.cellIsZero (s : State) : Bool := aluIsZero s.cell

end Sys2Proof.Machine
end

