-- ==== Sys2Proof/Machine/LoopControl.lean ====
section
/-! DEFINITION. Loop control: OPEN and CLOSE (spec/44_loop_control.md). OPEN never tests the cell and never skips. -/
namespace Sys2Proof.Machine

/-- OPEN `[`: the depth test comes first (R94); otherwise the position of this `[` is pushed (R93). -/
def execOpen (s : State) : Host.Outcome State Fault Refusal :=
  if LoopStack.full s.ls s.build.loopStackDepth then .next (s.raise .nestingLimitExceeded)
  else .next (s.setLs (LoopStack.push s.ls s.pc)).advance

/-- CLOSE `]`: the emptiness test comes first (R97, R98); then exit on zero (R95) or loop back to just after the `[` on
top of the stack, which stays (R96). -/
def execClose (s : State) : Host.Outcome State Fault Refusal :=
  match LoopStack.top? s.ls with
  | none => .next (s.raise .malformedProgram)
  | some q =>
    if s.cellIsZero then .next (s.setLs (LoopStack.pop s.ls)).advance
    else .next (s.jump (q + 1))

end Sys2Proof.Machine
end

