-- ==== Sys2Proof/Machine/Nop.lean ====
section
/-! DEFINITION. Every other character: NOP (spec/45_nop.md). -/
namespace Sys2Proof.Machine

/-- NOP (R103): it takes a step and a position, and nothing else. -/
def execNop (s : State) : Host.Outcome State Fault Refusal :=
  .next s.advance

end Sys2Proof.Machine
end

