-- ==== Sys2Proof/Machine/PointerMovement.lean ====
section
/-! DEFINITION. Pointer movement: RIGHT and LEFT (spec/42_pointer_movement.md). -/
namespace Sys2Proof.Machine

/-- RIGHT `>` (R80). -/
def execRight (s : State) : Host.Outcome State Fault Refusal :=
  .next (s.setDp (pointerRight s.dp)).advance

/-- LEFT `<` (R81). -/
def execLeft (s : State) : Host.Outcome State Fault Refusal :=
  .next (s.setDp (pointerLeft s.dp)).advance

end Sys2Proof.Machine
end

