-- ==== Sys2Proof/Syntax.lean ====
section
/-! DEFINITION. The nine instruction classes, in the order of 30_encoding.md R51. No instruction has an operand
field (R53). -/
namespace Sys2Proof

/-- One instruction: one character of the stream (30_encoding.md R50, R58). -/
inductive Instr where
  /-- INC, character `+` (41_cell_arithmetic.md R75). -/
  | inc
  /-- DEC, character `-` (41_cell_arithmetic.md R76). -/
  | dec
  /-- RIGHT, character `>` (42_pointer_movement.md R80). -/
  | right
  /-- LEFT, character `<` (42_pointer_movement.md R81). -/
  | left
  /-- OUT, character `.` (43_io.md R85). -/
  | output
  /-- IN, character `,` (43_io.md R86 to R88). -/
  | input
  /-- OPEN, character `[` (44_loop_control.md R93, R94). -/
  | openLoop
  /-- CLOSE, character `]` (44_loop_control.md R95 to R98). -/
  | closeLoop
  /-- NOP, any other character. One class for 248 codes; the code is kept "for printing" and for the encoder
  (45_nop.md R103, R104). -/
  | nop (code : Byte)
deriving DecidableEq, Repr

/-- The spec's mnemonics (30_encoding.md R58). -/
def Instr.mnemonic : Instr → String
  | .inc => "INC"
  | .dec => "DEC"
  | .right => "RIGHT"
  | .left => "LEFT"
  | .output => "OUT"
  | .input => "IN"
  | .openLoop => "OPEN"
  | .closeLoop => "CLOSE"
  | .nop _ => "NOP"

end Sys2Proof
end

