-- ==== Sys2Proof/Machine/Dispatch.lean ====
section
/-! DEFINITION. Dispatch: exactly one instruction rule runs (40_step_cycle.md R68). -/
namespace Sys2Proof.Machine

/-- The meaning of an instruction. It does not look at STATUS: the step does (R65; log entry 19). -/
def exec (i : Instr) (s : State) : Host.Outcome State Fault Refusal :=
  match i with
  | .inc => Sys2Proof.Machine.execInc s
  | .dec => Sys2Proof.Machine.execDec s
  | .right => Sys2Proof.Machine.execRight s
  | .left => Sys2Proof.Machine.execLeft s
  | .output => Sys2Proof.Machine.execOutput s
  | .input => Sys2Proof.Machine.execInput s
  | .openLoop => Sys2Proof.Machine.execOpen s
  | .closeLoop => Sys2Proof.Machine.execClose s
  | .nop _ => Sys2Proof.Machine.execNop s

end Sys2Proof.Machine
end

