-- ==== Sys2Proof/WellFormed.lean ====
section
/-! DEFINITION. Which terms of Instr are instructions: every one but a NOP that carries one of the eight instruction
codes (30_encoding.md R51, R54). -/
namespace Sys2Proof

/-- The eight instruction codes (30_encoding.md R51). -/
def instructionCodes : List Byte := [0x2B#8, 0x2D#8, 0x3E#8, 0x3C#8, 0x2E#8, 0x2C#8, 0x5B#8, 0x5D#8]

/-- Is this code one of the eight? -/
def isInstructionCode (c : Byte) : Bool := instructionCodes.contains c

/-- The only check an instruction needs: a NOP's code is one of the 248 others (45_nop.md R103). -/
def Instr.wellFormed : Instr → Bool
  | .nop c => !isInstructionCode c
  | .inc | .dec | .right | .left | .output | .input | .openLoop | .closeLoop => true

end Sys2Proof
end

