-- ==== Sys2Proof/Decode.lean ====
section
/-! DEFINITION. The instruction_decoder (30_encoding.md R52, R61) and, after it, the encoder. Decoding a character is
total and never faults; the only thing a byte list can lack is a character. -/
namespace Sys2Proof

/-- Decode one character code: all eight bits are compared with the eight codes of 30_encoding.md R51, and every
other code is a NOP (R52, R54). -/
def decode (c : Byte) : Instr :=
  if c = 0x2B#8 then .inc
  else if c = 0x2D#8 then .dec
  else if c = 0x3E#8 then .right
  else if c = 0x3C#8 then .left
  else if c = 0x2E#8 then .output
  else if c = 0x2C#8 then .input
  else if c = 0x5B#8 then .openLoop
  else if c = 0x5D#8 then .closeLoop
  else .nop c

/-- Why a byte list holds no instruction. -/
inductive DecodeError where
  /-- The list is at its end: there is no character to decode. -/
  | noCharacter
deriving DecidableEq, Repr

/-- Decode the first character of a byte list, and the rest (30_encoding.md R50, R56: every instruction is one
character). -/
def decodeBytes : List Byte → Except DecodeError (Instr × List Byte)
  | [] => .error .noCharacter
  | c :: rest => .ok (decode c, rest)

/-- The code the host presents a character as on this 8-bit hardware (30_encoding.md R55): its own code below 256;
above, a free code, which is never one of the eight (0x00 where the free value is one of them; log entry 11). -/
def presentChar (n : Nat) : Byte :=
  if n < 256 then BitVec.ofNat 8 n
  else if isInstructionCode (Config.wideCharCode n) then 0x00#8
  else Config.wideCharCode n

/-- Decode a character of any width: the full code is compared, never only its low 8 bits (30_encoding.md R55). -/
def decodeChar (n : Nat) : Instr :=
  if n = 0x2B then .inc
  else if n = 0x2D then .dec
  else if n = 0x3E then .right
  else if n = 0x3C then .left
  else if n = 0x2E then .output
  else if n = 0x2C then .input
  else if n = 0x5B then .openLoop
  else if n = 0x5D then .closeLoop
  else .nop (presentChar n)

/-- The bytes of a table word: `nbits` whole bytes, the first byte holding bits 7..0, at least one character. -/
def tableWordBytes (nbits w : Nat) : List Byte :=
  (List.range (max 1 (nbits / 8))).map fun k => BitVec.ofNat 8 ((w % 2 ^ nbits) / 2 ^ (8 * k))

/-- The instruction the decoder reads from a word of spec/opcode_table.json. -/
def decodeTableWord (nbits w : Nat) : Option Instr :=
  match decodeBytes (tableWordBytes nbits w) with
  | .ok (i, _) => some i
  | .error _ => none

/-- The character of an instruction (30_encoding.md R51). -/
def encode : Instr → Byte
  | .inc => 0x2B#8
  | .dec => 0x2D#8
  | .right => 0x3E#8
  | .left => 0x3C#8
  | .output => 0x2E#8
  | .input => 0x2C#8
  | .openLoop => 0x5B#8
  | .closeLoop => 0x5D#8
  | .nop c => c

/-- The `mask` of an instruction's row in spec/opcode_table.json. -/
def tableMask : Instr → Byte
  | .nop _ => 0x00#8
  | .inc | .dec | .right | .left | .output | .input | .openLoop | .closeLoop => 0xFF#8

/-- The `match` of an instruction's row in spec/opcode_table.json, as its `encoding` bits read. -/
def tableMatch : Instr → Byte
  | .inc => 0b00101011#8
  | .dec => 0b00101101#8
  | .right => 0b00111110#8
  | .left => 0b00111100#8
  | .output => 0b00101110#8
  | .input => 0b00101100#8
  | .openLoop => 0b01011011#8
  | .closeLoop => 0b01011101#8
  | .nop _ => 0b00000000#8

end Sys2Proof
end

