-- ==== Sys2Proof/Machine/HostView.lean ====
section
/-! DEFINITION. What the host does before a run and reads after it (70_reset_and_hazards.md R130 to R135): load and
reset, the status codes, the result, and placing one word where the machine fetches next. -/
namespace Sys2Proof.Machine

/-- The number of a STATUS value (10_state.md R19). -/
def Status.code : Status → BitVec 2
  | .running => 0
  | .halted => 1
  | .faulted => 2

/-- The number of a FAULT_KIND value (10_state.md R20). -/
def FaultKind.code : FaultKind → BitVec 2
  | .none => 0
  | .malformedProgram => 1
  | .inputExhausted => 2
  | .nestingLimitExceeded => 3

/-- Reset with a program and an input source in place: the start of one `execute` call (70_reset_and_hazards.md R130,
R133). It depends on no earlier state (10_state.md R26). -/
def startRun (build : BuildParams) (prog : List Byte) (source : InputSource) : State :=
  { State.reset with build := build, prog := prog, input := source }

/-- The host's load and reset: a program longer than `PROG_LEN_MAX` is refused by the host (D5). -/
def load? (build : BuildParams) (prog : List Byte) (source : InputSource) : Option State :=
  if build.progLenMax.holds prog.length then some (startRun build prog source) else none

/-- The host applies reset, in any state: the program in place is run anew, and nothing else of the state survives
(70_reset_and_hazards.md R130, 10_state.md R26). Reset comes from outside the machine, so no step takes it (log
entry 15). -/
def State.applyReset (s : State) (source : InputSource) : State := startRun s.build s.prog source

/-- The stream the host places for a sequence of characters: one code for each, in its position (30_encoding.md R55,
R60). -/
def presentProgram (chars : List Nat) : List Byte := chars.map presentChar

/-- The result of a run (70_reset_and_hazards.md R134, R135). -/
structure RunResult where
  status    : BitVec 2
  faultKind : BitVec 2
  faultPc   : Nat
  output    : List Byte
  consumed  : Nat
  tape      : Memory
  dp        : BitVec 15
  pc        : Nat
  ls        : LoopStack
deriving DecidableEq, Repr

/-- A run is over exactly when STATUS is HALTED or FAULTED (70_reset_and_hazards.md R134). -/
def State.terminal (s : State) : Bool := s.status != .running

/-- What the host reads: only at a terminal status (10_state.md R28). -/
def State.result? (s : State) : Option RunResult :=
  if s.terminal then
    some
      { status := s.status.code, faultKind := s.faultKind.code, faultPc := s.faultPc, output := s.output
        consumed := s.pulled.length, tape := s.tape, dp := BitVec.ofNat 15 s.dp.val, pc := s.pc, ls := s.ls }
  else none

/-- A stream with some codes placed from a position on; missing positions before it are filled with code 0x00, a
NOP. -/
def placeAt (prog : List Byte) (p : Nat) (codes : List Byte) : List Byte :=
  (prog ++ List.replicate (p - prog.length) 0x00#8).take p ++ codes ++ prog.drop (p + codes.length)

end Sys2Proof.Machine
end

