-- ==== Sys2Proof/Machine/Step.lean ====
section
/-! DEFINITION. The step (40_step_cycle.md R65), and the word the host places for its own questions. -/
namespace Sys2Proof.Machine

/-- One step: in a terminal status no step exists (R65, R118; log entry 4); at the end of the stream the halt
transition (R66); otherwise fetch, decode, and run the instruction. -/
def step (s : State) : Host.Outcome State Fault Refusal :=
  match s.status with
  | .halted => .fault .runHalted
  | .faulted => .fault (.runFaulted s.faultKind s.faultPc)
  | .running =>
    match s.fetch with
    | none => .next s.halt
    | some c => exec (decode c) s

/-- `s` with one instruction placed at `pc` and STATUS RUNNING, so that the next step runs it: it stands for the
host's load (70_reset_and_hazards.md R133; log entries 3 and 17). -/
def State.withFetchWord (s : State) (nbits w : Nat) : State :=
  { s with prog := placeAt s.prog s.pc (tableWordBytes nbits w), status := .running }

end Sys2Proof.Machine
end

