-- ==== Sys2Proof/Safety.lean ====
section
/-! DEFINITION. The words in which claims about runs are stated: several steps, what a reachable state looks like, the
brackets of a program, and what counts as a successful run. -/
namespace Sys2Proof.Machine

/-! ### Runs -/

/-- `k` steps; none once no further state exists (40_step_cycle.md R65). -/
def stepN : Nat → State → Option State
  | 0, s => some s
  | k + 1, s =>
    match step s with
    | .next t => stepN k t
    | .fault _ | .refused _ => none

/-- `t` is reached from `s` by some number of steps. -/
inductive Reaches (s : State) : State → Prop where
  | refl : Reaches s s
  | tail {t u : State} : Reaches s t → step t = .next u → Reaches s u

/-- A successful end of a run: a normal halt, never a fault (60_exceptions.md R119). -/
def State.succeeded (s : State) : Bool := s.status == .halted && s.faultKind == .none

/-! ### The brackets of a program -/

/-- Ordinary bracket matching, one character at position `p`: `[` opens, `]` closes the nearest open `[`. -/
def matchBracket (opens : LoopStack) (p : Nat) (c : Byte) : LoopStack :=
  if c = 0x5B#8 then opens ++ [p] else if c = 0x5D#8 then opens.dropLast else opens

/-- The positions of the `[` that are unmatched in the first `n` characters, in increasing order (10_state.md R27). -/
def unmatchedOpens (prog : List Byte) : Nat → LoopStack
  | 0 => []
  | n + 1 =>
    match prog[n]? with
    | none => unmatchedOpens prog n
    | some c => matchBracket (unmatchedOpens prog n) n c

/-- The number of `[` characters of a program (44_loop_control.md R102). -/
def bracketCount (prog : List Byte) : Nat := prog.count 0x5B#8

/-- This step is an OPEN that pushes (44_loop_control.md R93). -/
def State.pushes (s : State) : Bool :=
  s.status == .running && s.fetch == some 0x5B#8 && !LoopStack.full s.ls s.build.loopStackDepth

/-- This step is a CLOSE that pops (44_loop_control.md R95). -/
def State.pops (s : State) : Bool :=
  s.status == .running && s.fetch == some 0x5D#8 && !s.ls.isEmpty && s.cell == 0#8

/-- How many of the next `k` steps have a property. -/
def countSteps (p : State → Bool) : Nat → State → Nat
  | 0, _ => 0
  | k + 1, s =>
    (p s).toNat +
      match step s with
      | .next t => countSteps p k t
      | .fault _ | .refused _ => 0

/-! ### What every reachable state satisfies -/

/-- The cause of the recorded fault still stands in a faulted state: the row of the table of 60_exceptions.md R110. -/
def State.FaultCause (s : State) : Prop :=
  match s.faultKind with
  | .none => False
  | .malformedProgram => s.fetch = some 0x5D#8 ∧ s.ls = []
  | .inputExhausted => s.fetch = some 0x2C#8 ∧ s.input.pull.1 = .exhausted
  | .nestingLimitExceeded => s.fetch = some 0x5B#8 ∧ s.build.loopStackDepth = .bounded s.ls.length

/-- What the three status registers say of one another and of the Program Counter (10_state.md R19 to R21). -/
def State.StatusInv (s : State) : Prop :=
  match s.status with
  | .running => s.faultKind = .none ∧ s.faultPc = 0
  | .halted => s.faultKind = .none ∧ s.faultPc = 0 ∧ s.pc = s.progLen
  | .faulted => s.faultPc = s.pc ∧ s.FaultCause

/-- The invariant of the machine. -/
structure State.Inv (s : State) : Prop where
  /-- The tape is in canonical form (10_state.md R11, R12). -/
  tapeWf    : Memory.wf s.tape
  /-- `0 ≤ pc ≤ L` (10_state.md R14). -/
  pcLe      : s.pc ≤ s.progLen
  /-- The Loop Stack content invariant (10_state.md R27). -/
  loopStack : s.ls = unmatchedOpens s.prog s.pc
  /-- The status registers (10_state.md R19 to R21). -/
  status    : s.StatusInv
  /-- The stack is never deeper than `LOOP_STACK_DEPTH` (00_scope.md R5). -/
  depthFits : s.build.loopStackDepth.holds s.ls.length = true
  /-- The program fits the build (92_eei_decisions.md D5). -/
  progFits  : s.build.progLenMax.holds s.progLen = true

/-! ### Other words -/

/-- The bytes of a source that are already determined and not yet consumed. -/
def InputSource.knownBytes : InputSource → List Byte
  | .buffer bs => bs
  | .live script _ => script.filterMap fun a =>
      match a with
      | .byte b => some b
      | .notReady | .exhausted => none

/-- The same machine state in a build with an unbounded Loop Stack. -/
def State.unbound (s : State) : State :=
  { s with build := { s.build with loopStackDepth := .unbounded } }

end Sys2Proof.Machine
end

