-- ==== Sys2Proof/Certificates/Slice0/Obligations.lean ====
section
/-! DEFINITION. The statements for the provers, in the order of the spec's files. Each is a claim about the machine for
every state and operand; none is about a program. -/
section
open Sys2Proof Sys2Proof.Machine

/-! ### Encoding and decode (30_encoding.md) -/

/-- R52: the eight codes decode to their eight classes and every other code is a NOP. -/
def Obligations.EightCodesDecodeOthersAreNop : Prop :=
  (decode 0x2B#8 = .inc ∧ decode 0x2D#8 = .dec ∧ decode 0x3E#8 = .right ∧ decode 0x3C#8 = .left ∧
    decode 0x2E#8 = .output ∧ decode 0x2C#8 = .input ∧ decode 0x5B#8 = .openLoop ∧ decode 0x5D#8 = .closeLoop) ∧
  ∀ c : Byte, c ≠ 0x2B#8 → c ≠ 0x2D#8 → c ≠ 0x3E#8 → c ≠ 0x3C#8 → c ≠ 0x2E#8 → c ≠ 0x2C#8 → c ≠ 0x5B#8 → c ≠ 0x5D#8 →
    decode c = .nop c

/-- Decoding the character of a well-formed instruction, alone or at the head of a stream, gives it back. -/
def Obligations.DecodeOfEncodeIsTheInstruction : Prop :=
  ∀ i : Instr, i.wellFormed = true →
    decode (encode i) = i ∧ ∀ rest : List Byte, decodeBytes (encode i :: rest) = .ok (i, rest)

/-- Every code is the character of exactly one well-formed instruction, the one it decodes to. -/
def Obligations.EveryCodeEncodesExactlyOneInstruction : Prop :=
  ∀ c : Byte, (decode c).wellFormed = true ∧ encode (decode c) = c ∧
    ∀ i : Instr, i.wellFormed = true → encode i = c → i = decode c

/-- R55: a character is decoded by its full code, so every code but the eight is a NOP, 256 and above too; and the
stream presented to this hardware decodes, position by position, as the characters do.
The spec's own decision D24 (log entry 11). -/
def Obligations.WideCharactersAreCommentsInPlace : Prop :=
  (∀ n : Nat, n ∉ [0x2B, 0x2D, 0x3E, 0x3C, 0x2E, 0x2C, 0x5B, 0x5D] → ∃ c, decodeChar n = .nop c) ∧
  ∀ (chars : List Nat) (p : Nat), (presentProgram chars)[p]?.map decode = chars[p]?.map decodeChar

/-! ### The step (40_step_cycle.md) -/

/-- A running machine whose `pc` holds a character runs exactly the instruction it decodes to; nothing stands around
it. -/
def Obligations.StepRunsTheDecodedInstruction : Prop :=
  ∀ (s : State) (c : Byte), s.status = .running → s.prog[s.pc]? = some c → step s = exec (decode c) s

/-- R66: at the end of the stream the step sets STATUS to HALTED and changes nothing else, whatever the Loop Stack
holds.
That halting is a step of its own is the spec's own decision D25 (log entry 18). -/
def Obligations.HaltTransitionOnlySetsStatus : Prop :=
  ∀ s : State, s.status = .running → s.progLen ≤ s.pc → step s = .next { s with status := .halted }

/-- A next state exists exactly when STATUS is RUNNING: no instruction in any state ends a run but by the halt
transition or a recorded fault, and a terminal status takes no step. -/
def Obligations.StepExistsExactlyWhenRunning : Prop :=
  ∀ s : State, (∃ t, step s = .next t) ↔ s.status = .running

/-- R69: an instruction that completes advances `pc` by 1, but a CLOSE that finds a non-empty stack and a non-zero
cell goes to `top(ls) + 1`; an instruction that faults and an IN that stalls leave `pc` unchanged. -/
def Obligations.ProgramCounterAdvance : Prop :=
  ∀ (i : Instr) (s t : State), s.status = .running → exec i s = .next t →
    (t.status = .faulted ∧ t.pc = s.pc) ∨
    (t.status = .running ∧ i = .input ∧ s.input.pull.1 = .notReady ∧ t.pc = s.pc) ∨
    (t.status = .running ∧ i = .closeLoop ∧ s.cell ≠ 0#8 ∧ ∃ l q, s.ls = l ++ [q] ∧ t.pc = q + 1) ∨
    (t.status = .running ∧ t.pc = s.pc + 1 ∧ (i = .closeLoop → s.cell = 0#8) ∧
      (i = .input → ∃ b, s.input.pull.1 = .byte b))

/-- The self-loop of an empty body: a CLOSE whose `[` is just before it and whose cell is not 0 leaves the state as it
is, for ever. -/
def Obligations.EmptyBodyWithNonZeroCellLoopsForEver : Prop :=
  ∀ (s : State) (l : LoopStack) (q : Nat), s.status = .running → s.fetch = some 0x5D#8 → s.ls = l ++ [q] →
    s.pc = q + 1 → s.cell ≠ 0#8 → ∀ k, stepN k s = some s

/-! ### Cell arithmetic (41_cell_arithmetic.md) -/

/-- R75: INC adds 1 modulo 256 to the current cell and advances; every other cell and every other part of the state is
unchanged. -/
def Obligations.IncAddsOneModulo256 : Prop :=
  decode 0x2B#8 = .inc ∧
  ∀ s : State, ∃ t, exec .inc s = .next t ∧
    (Memory.read t.tape s.dp.val).toNat = ((Memory.read s.tape s.dp.val).toNat + 1) % 256 ∧
    (∀ a : Nat, a ≠ s.dp.val → Memory.read t.tape a = Memory.read s.tape a) ∧
    t = { s with tape := t.tape, pc := s.pc + 1 }

/-- R76: DEC takes 1 modulo 256 from the current cell and advances; every other cell and every other part of the state
is unchanged. -/
def Obligations.DecSubtractsOneModulo256 : Prop :=
  decode 0x2D#8 = .dec ∧
  ∀ s : State, ∃ t, exec .dec s = .next t ∧
    (Memory.read t.tape s.dp.val).toNat = ((Memory.read s.tape s.dp.val).toNat + 255) % 256 ∧
    (∀ a : Nat, a ≠ s.dp.val → Memory.read t.tape a = Memory.read s.tape a) ∧
    t = { s with tape := t.tape, pc := s.pc + 1 }

/-- R78: the laws of cell arithmetic on unsigned 8-bit values: the wrap, the inverses, n-fold increments, and when an
n-fold increment gives 0.
R78 is the spec's own inference from R75 and R76. -/
def Obligations.CellArithmeticLaws : Prop :=
  (∀ v : Byte, v.toNat < 255 → (aluInc v).toNat = v.toNat + 1) ∧ aluInc 255#8 = 0#8 ∧
  (∀ v : Byte, 0 < v.toNat → (aluDec v).toNat = v.toNat - 1) ∧ aluDec 0#8 = 255#8 ∧
  (∀ v : Byte, aluDec (aluInc v) = v ∧ aluInc (aluDec v) = v) ∧
  (∀ (n : Nat) (v : Byte), (aluInc^[n] v).toNat = (v.toNat + n) % 256) ∧
  (∀ v : Byte, aluInc^[256] v = v ∧ aluDec^[256] v = v) ∧
  (∀ (k : Nat) (v : Byte), aluInc^[k] v = 0#8 ↔ k % 256 = (256 - v.toNat) % 256)

/-- INC then DEC, or DEC then INC, leaves the whole state but `pc`: on a canonical tape no trace of the visit remains,
not even in the list that holds the tape. -/
def Obligations.IncAndDecUndoEachOther : Prop :=
  ∀ s t u : State, Memory.wf s.tape →
    (exec .inc s = .next t ∧ exec .dec t = .next u) ∨ (exec .dec s = .next t ∧ exec .inc t = .next u) →
    u = { s with pc := s.pc + 2 }

/-! ### Pointer movement (42_pointer_movement.md) -/

/-- R80: RIGHT adds 1 modulo 30000 to the Data Pointer and advances; nothing else changes. -/
def Obligations.RightMovesModulo30000 : Prop :=
  decode 0x3E#8 = .right ∧
  ∀ s : State, ∃ t, exec .right s = .next t ∧ t.dp.val = (s.dp.val + 1) % 30000 ∧
    t = { s with dp := t.dp, pc := s.pc + 1 }

/-- R81: LEFT takes 1 modulo 30000 from the Data Pointer and advances; nothing else changes. -/
def Obligations.LeftMovesModulo30000 : Prop :=
  decode 0x3C#8 = .left ∧
  ∀ s : State, ∃ t, exec .left s = .next t ∧ t.dp.val = (s.dp.val + 29999) % 30000 ∧
    t = { s with dp := t.dp, pc := s.pc + 1 }

/-- R82: the laws of the pointer step, modulo 30000 and not a power of two.
R82 is the spec's own inference from R80 and R81. -/
def Obligations.PointerStepLaws : Prop :=
  (∀ d : DataPointer, pointerRight (pointerLeft d) = d ∧ pointerLeft (pointerRight d) = d) ∧
  (∀ (n : Nat) (d : DataPointer), (pointerRight^[n] d).val = (d.val + n) % 30000) ∧
  (∀ (n : Nat) (d : DataPointer), ((pointerLeft^[n] d).val : Int) = ((d.val : Int) - n) % 30000) ∧
  (∀ d : DataPointer, pointerRight^[30000] d = d ∧ pointerLeft^[30000] d = d)

/-! ### Input and output (43_io.md, 20_memory.md) -/

/-- R85: OUT appends exactly the current cell to the output and advances; nothing else changes. -/
def Obligations.OutAppendsTheCurrentCell : Prop :=
  decode 0x2E#8 = .output ∧
  ∀ s : State, exec .output s =
    .next { s with output := s.output ++ [Memory.read s.tape s.dp.val], pc := s.pc + 1 }

/-- R86: when the source delivers a byte, IN stores it in the current cell, consumes it and advances; every other cell
and every other part of the state is unchanged. -/
def Obligations.InStoresTheDeliveredByte : Prop :=
  decode 0x2C#8 = .input ∧
  ∀ (s : State) (b : Byte) (src : InputSource), s.input.pull = (.byte b, src) →
    ∃ t, exec .input s = .next t ∧ Memory.read t.tape s.dp.val = b ∧
      (∀ a : Nat, a ≠ s.dp.val → Memory.read t.tape a = Memory.read s.tape a) ∧
      t = { s with tape := t.tape, pc := s.pc + 1, input := src, pulled := s.pulled ++ [b] }

/-- A stalled IN changes nothing of the machine and consumes nothing: only the environment's schedule moves, which is
the model's own (log entry 2). -/
def Obligations.InStallChangesNothing : Prop :=
  ∀ (s : State) (src : InputSource), s.input.pull = (.notReady, src) →
    exec .input s = .next { s with input := src } ∧ src.knownBytes = s.input.knownBytes

/-- However often a live source answers NotReady before a byte, the stalls end in the state of an IN that was served at
once: stalls cannot be told apart from no step at all (the script is the model's, log entry 2). -/
def Obligations.StallsEndAsIfServedAtOnce : Prop :=
  ∀ (k n : Nat) (b : Byte) (rest : List InAnswer) (s : State), s.status = .running → s.fetch = some 0x2C#8 →
    s.input = .live (List.replicate k .notReady ++ .byte b :: rest) n →
    ∃ t, stepN (k + 1) s = some t ∧
      exec .input { s with input := .live (.byte b :: rest) n } = .next t ∧ t.pc = s.pc + 1

/-- R88: when the source is exhausted, IN records InputExhausted at its position and changes nothing else.
That the policy is a fault is the spec's own decision D7 (log entries 5 and 18). -/
def Obligations.InFaultsOnExhaustedInput : Prop :=
  ∀ (s : State) (src : InputSource), s.input.pull = (.exhausted, src) →
    exec .input s = .next { s with status := .faulted, faultKind := .inputExhausted, faultPc := s.pc }

/-- The answers of `InPull()`: a buffer answers the byte at its head while it has one and Exhausted after, never
NotReady; and whatever the source, Exhausted is for good. -/
def Obligations.InPullAnswers : Prop :=
  (∀ (b : Byte) (rest : List Byte), (InputSource.buffer (b :: rest)).pull = (.byte b, .buffer rest)) ∧
  (∀ bs : List Byte, (InputSource.buffer bs).pull.1 ≠ .notReady) ∧
  (InputSource.buffer []).pull.1 = .exhausted ∧
  ∀ (src : InputSource) (k : Nat), src.pull.1 = .exhausted →
    ((fun i => i.pull.2)^[k] src).pull.1 = .exhausted

/-- A finite buffer is consumed in stream order: the bytes consumed so far followed by the bytes left are always the
same sequence, so no byte is lost, repeated or reordered. -/
def Obligations.BufferIsConsumedInOrder : Prop :=
  ∀ (s t : State) (bs : List Byte), step s = .next t → s.input = .buffer bs →
    ∃ bs', t.input = .buffer bs' ∧ t.pulled ++ bs' = s.pulled ++ bs

/-- R37: the output is append-only: a step leaves it as it is, or, at an OUT, appends exactly the current cell. -/
def Obligations.OutputIsAppendOnly : Prop :=
  ∀ s t : State, step s = .next t →
    t.output = if s.fetch = some 0x2E#8 then s.output ++ [Memory.read s.tape s.dp.val] else s.output

/-- The core cannot read the output back: with another output before the step, the step does the same and appends the
same bytes. -/
def Obligations.OutputIsNeverReadBack : Prop :=
  ∀ s t : State, step s = .next t → ∃ d, t.output = s.output ++ d ∧
    ∀ o : List Byte, step { s with output := o } = .next { t with output := o ++ d }

/-- The core cannot look ahead in the input: two sources with the same next answer give the same step, but for the
source itself. -/
def Obligations.InputIsNeverReadAhead : Prop :=
  ∀ (s t : State) (src : InputSource), step s = .next t → src.pull.1 = s.input.pull.1 →
    ∃ src', step { s with input := src } = .next { t with input := src' }

/-! ### Loop control (44_loop_control.md) -/

/-- R93: OPEN, on a stack that is not full, pushes its own position and advances, whatever the current cell holds; nothing
else changes. -/
def Obligations.OpenPushesItsPosition : Prop :=
  decode 0x5B#8 = .openLoop ∧
  ∀ s : State, s.build.loopStackDepth ≠ .bounded s.ls.length →
    exec .openLoop s = .next { s with ls := s.ls ++ [s.pc], pc := s.pc + 1 }

/-- R94: OPEN on a full bounded stack records NestingLimitExceeded at its position and changes nothing else.
The bounded stack is an open parameter, the spec's own decision D6 (log entries 1 and 5). -/
def Obligations.OpenFaultsOnFullStack : Prop :=
  ∀ s : State, s.build.loopStackDepth = .bounded s.ls.length →
    exec .openLoop s = .next { s with status := .faulted, faultKind := .nestingLimitExceeded, faultPc := s.pc }

/-- R95: CLOSE with a non-empty stack and a current cell of 0 pops and advances; nothing else changes. -/
def Obligations.CloseExitsOnZero : Prop :=
  decode 0x5D#8 = .closeLoop ∧
  ∀ (s : State) (l : LoopStack) (q : Nat), s.ls = l ++ [q] → Memory.read s.tape s.dp.val = 0#8 →
    exec .closeLoop s = .next { s with ls := l, pc := s.pc + 1 }

/-- R96: CLOSE with a non-empty stack and a non-zero current cell goes to just after the `[` on top of the stack; the
stack keeps all its entries and nothing else changes. At a CLOSE in a state that meets the invariant that target is at
most the CLOSE's own position, which is a valid one.
That the target is top(ls) + 1 is the spec's own decision D11 (log entry 18). -/
def Obligations.CloseLoopsBackOnNonZero : Prop :=
  (∀ (s : State) (l : LoopStack) (q : Nat), s.ls = l ++ [q] → Memory.read s.tape s.dp.val ≠ 0#8 →
    exec .closeLoop s = .next { s with pc := q + 1 }) ∧
  ∀ (s : State) (l : LoopStack) (q : Nat), s.Inv → s.fetch = some 0x5D#8 → s.ls = l ++ [q] →
    q + 1 ≤ s.pc ∧ q + 1 < s.progLen

/-- R97: CLOSE with an empty stack records MalformedProgram at its position, whatever the current cell holds, and
changes nothing else. -/
def Obligations.CloseFaultsOnEmptyStack : Prop :=
  ∀ s : State, s.ls = [] →
    exec .closeLoop s = .next { s with status := .faulted, faultKind := .malformedProgram, faultPc := s.pc }

/-- In a state that meets the invariant, the top of the Loop Stack at a CLOSE is the position of the `[` that matches
it: an earlier `[`, still open at every position in between; so the loop-back goes backward or to the CLOSE itself. -/
def Obligations.LoopBackGoesToTheMatchingOpen : Prop :=
  ∀ (s t : State) (l : LoopStack) (q : Nat), s.Inv → s.status = .running → s.fetch = some 0x5D#8 →
    s.ls = l ++ [q] → s.cell ≠ 0#8 → step s = .next t →
    t.pc = q + 1 ∧ t.pc ≤ s.pc ∧ s.prog[q]? = some 0x5B#8 ∧ unmatchedOpens s.prog q = l ∧
      ∀ n, q < n → n ≤ s.pc → s.ls <+: unmatchedOpens s.prog n

/-- The content of the Loop Stack in every state that meets the invariant, with its consequences (10_state.md R27): the
entries are strictly increasing positions of `[` before `pc`, no more of them than the program has `[`; and a position
is on the stack exactly when it holds a `[` before `pc` that no `]` before `pc` closes: in every stretch from it up to
`pc`, the `[` outnumber the `]`. That is ordinary bracket matching, said without the stack scan of the invariant. -/
def Obligations.LoopStackIsExactlyTheUnmatchedOpens : Prop :=
  ∀ s : State, s.Inv →
    s.ls.Pairwise (· < ·) ∧
    (∀ q ∈ s.ls, q < s.pc ∧ s.prog[q]? = some 0x5B#8) ∧
    s.ls.length ≤ bracketCount s.prog ∧
    ∀ q : Nat, q ∈ s.ls ↔ q < s.pc ∧ s.prog[q]? = some 0x5B#8 ∧
      ∀ n, q < n → n ≤ s.pc →
        ((s.prog.take n).drop q).count 0x5D#8 < ((s.prog.take n).drop q).count 0x5B#8

/-- R16: the depth of the Loop Stack is what it was, plus the OPENs that pushed, less the CLOSEs that popped. -/
def Obligations.StackDepthCountsPushesAndPops : Prop :=
  ∀ (k : Nat) (s t : State), stepN k s = some t →
    t.ls.length + countSteps State.pops k s = s.ls.length + countSteps State.pushes k s

/-- A bounded stack with room for every `[` of the program behaves like an unbounded one: step for step the same, from
every state that meets the invariant, and NestingLimitExceeded is never recorded. -/
def Obligations.RoomyBoundedStackActsUnbounded : Prop :=
  ∀ (N : Nat) (s t : State), s.Inv → s.build.loopStackDepth = .bounded N → bracketCount s.prog ≤ N →
    step s = .next t → step s.unbound = .next t.unbound ∧ t.faultKind ≠ .nestingLimitExceeded

/-! ### NOP (45_nop.md) -/

/-- R103: every code but the eight is a NOP, and a NOP advances and changes nothing else. -/
def Obligations.NopOnlyAdvances : Prop :=
  (∀ c : Byte, c ∉ [0x2B#8, 0x2D#8, 0x3E#8, 0x3C#8, 0x2E#8, 0x2C#8, 0x5B#8, 0x5D#8] → decode c = .nop c) ∧
  ∀ (c : Byte) (s : State), exec (.nop c) s = .next { s with pc := s.pc + 1 }

/-! ### Faults (60_exceptions.md) -/

/-- R110: an instruction run in a RUNNING state faults exactly in the rows of the table, with the kind of its row, whose
code is the row's, and with its own position.
The record and its codes are the spec's own decision D8 (log entries 5 and 18). -/
def Obligations.FaultsAreExactlyTheTable : Prop :=
  (FaultKind.none.code = 0#2 ∧ FaultKind.malformedProgram.code = 1#2 ∧ FaultKind.inputExhausted.code = 2#2 ∧
    FaultKind.nestingLimitExceeded.code = 3#2) ∧
  ∀ (i : Instr) (s t : State), s.status = .running → exec i s = .next t →
    ((t.status = .faulted ∧ t.faultKind = .malformedProgram) ↔ (i = .closeLoop ∧ s.ls = [])) ∧
    ((t.status = .faulted ∧ t.faultKind = .inputExhausted) ↔ (i = .input ∧ s.input.pull.1 = .exhausted)) ∧
    ((t.status = .faulted ∧ t.faultKind = .nestingLimitExceeded) ↔
      (i = .openLoop ∧ s.build.loopStackDepth = .bounded s.ls.length)) ∧
    (t.status = .faulted → t.faultKind ≠ .none ∧ t.faultPc = s.pc)

/-- R115, R116: a step that ends FAULTED writes STATUS, FAULT_KIND and FAULT_PC and nothing else.
The registers and that nothing else changes are the spec's own decisions D8 and D14 (log entries 5 and 18). -/
def Obligations.FaultEntryWritesOnlyTheStatusRegisters : Prop :=
  ∀ s t : State, step s = .next t → t.status = .faulted →
    t.faultKind ≠ .none ∧ t = { s with status := .faulted, faultKind := t.faultKind, faultPc := s.pc }

/-- R118: a terminal status takes no step. -/
def Obligations.TerminalStatusTakesNoStep : Prop :=
  ∀ s : State, s.status ≠ .running → (∀ t, step s ≠ .next t) ∧ ∀ k t, stepN k s = some t → t = s

/-! ### The state (10_state.md, 20_memory.md) -/

/-- Who writes what: each part of the state is written only by the instructions the table of R10 names; the program and
the build by none. -/
def Obligations.EachPartIsWrittenOnlyByItsInstructions : Prop :=
  ∀ (i : Instr) (s t : State), exec i s = .next t →
    (t.tape ≠ s.tape → i = .inc ∨ i = .dec ∨ i = .input) ∧
    (t.dp ≠ s.dp → i = .right ∨ i = .left) ∧
    (t.ls ≠ s.ls → i = .openLoop ∨ i = .closeLoop) ∧
    (t.output ≠ s.output → i = .output) ∧
    (t.input ≠ s.input ∨ t.pulled ≠ s.pulled → i = .input) ∧
    (t.status ≠ s.status ∨ t.faultKind ≠ s.faultKind ∨ t.faultPc ≠ s.faultPc →
      i = .input ∨ i = .openLoop ∨ i = .closeLoop) ∧
    t.prog = s.prog ∧ t.build = s.build

/-- A step writes no cell but the current one. -/
def Obligations.OnlyTheCurrentCellIsWritten : Prop :=
  ∀ (s t : State) (a : Nat), step s = .next t → a ≠ s.dp.val → Memory.read t.tape a = Memory.read s.tape a

/-- A step reads no cell but the current one: two tapes that agree there give steps that agree on everything but the
tape, and on the current cell after it. -/
def Obligations.OnlyTheCurrentCellIsRead : Prop :=
  ∀ (s t : State) (m : Memory), step s = .next t → Memory.read m s.dp.val = Memory.read s.tape s.dp.val →
    ∃ m', step { s with tape := m } = .next { t with tape := m' } ∧
      Memory.read m' s.dp.val = Memory.read t.tape s.dp.val

/-- The canonical form is canonical: two tapes in that form that read the same everywhere are the same data. -/
def Obligations.CanonicalTapesAreEqualWhenTheyReadEqual : Prop :=
  ∀ m m' : Memory, Memory.wf m → Memory.wf m' → (∀ a : Nat, a < 30000 → Memory.read m a = Memory.read m' a) → m = m'

/-- Every step keeps the tape in canonical form. -/
def Obligations.StepKeepsTheTapeCanonical : Prop :=
  ∀ s t : State, Memory.wf s.tape → step s = .next t → Memory.wf t.tape

/-- Every step keeps the invariant of the machine: the Loop Stack lists exactly the unmatched `[` before `pc`, `pc` is
in range, the tape is canonical, the status registers agree and a recorded fault is explained by its cause. -/
def Obligations.StepKeepsTheInvariant : Prop :=
  ∀ s t : State, s.Inv → step s = .next t → t.Inv

/-- The reset state, and every state in which a program has been loaded, meets the invariant. -/
def Obligations.ResetAndLoadMeetTheInvariant : Prop :=
  State.reset.Inv ∧ ∀ (b : BuildParams) (prog : List Byte) (src : InputSource) (s : State),
    load? b prog src = some s → s.Inv

/-- Every state reached in a run of any loaded program meets the invariant, and the program and the build in it are the
ones that were loaded. -/
def Obligations.EveryReachedStateMeetsTheInvariant : Prop :=
  ∀ (b : BuildParams) (prog : List Byte) (src : InputSource) (s t : State),
    load? b prog src = some s → Reaches s t → t.Inv ∧ t.prog = prog ∧ t.build = b

/-- In a build with a finite `PROG_LEN_MAX`, `PC_BITS` is the smallest width that holds it, and the Program Counter and
FAULT_PC fit in it in every state that meets the invariant. -/
def Obligations.ProgramCounterFitsItsWidth : Prop :=
  (∀ (b : BuildParams) (n w : Nat), b.progLenMax = .bounded n → b.pcBits = some w →
    n < 2 ^ w ∧ ∀ v, n < 2 ^ v → w ≤ v) ∧
  ∀ (s : State) (w : Nat), s.Inv → s.build.pcBits = some w → s.pc < 2 ^ w ∧ s.faultPc < 2 ^ w

/-! ### Reset and the host (10_state.md R25, 70_reset_and_hazards.md) -/

/-- R25: after reset, with whatever program and source are in place, every cell is 0, the stack is empty, `dp`, `pc`
and FAULT_PC are 0, STATUS is RUNNING, no fault is recorded, nothing is output or consumed.
The values of the status registers, and that dp and pc are 0, are the spec's own decision D13 (log entry 18). -/
def Obligations.ResetValues : Prop :=
  ∀ (b : BuildParams) (prog : List Byte) (src : InputSource),
    (∀ a : Nat, Memory.read (startRun b prog src).tape a = 0#8) ∧
    (startRun b prog src).dp.val = 0 ∧ (startRun b prog src).pc = 0 ∧ (startRun b prog src).ls = [] ∧
    (startRun b prog src).status = .running ∧ (startRun b prog src).faultKind = .none ∧
    (startRun b prog src).faultPc = 0 ∧ (startRun b prog src).output = [] ∧
    (startRun b prog src).input = src ∧ (startRun b prog src).pulled = []

/-- Reset applied in any state of a run, with the same source attached again, gives the very state the run started
from: nothing of a run survives into the next. -/
def Obligations.ResetAfterAnyRunGivesTheSameStart : Prop :=
  ∀ (b : BuildParams) (prog : List Byte) (src : InputSource) (t : State),
    Reaches (startRun b prog src) t → t.applyReset src = startRun b prog src

/-- A program longer than a finite `PROG_LEN_MAX` is refused at load; every other program is loaded from the reset
values: one that fits, and any program at all where `PROG_LEN_MAX` is unbounded, as in the reference build. -/
def Obligations.HostRefusesOnlyTooLongPrograms : Prop :=
  (∀ (b : BuildParams) (prog : List Byte) (src : InputSource) (n : Nat), b.progLenMax = .bounded n →
    (n < prog.length → load? b prog src = none) ∧
    (prog.length ≤ n → load? b prog src = some (startRun b prog src))) ∧
  ∀ (b : BuildParams) (prog : List Byte) (src : InputSource), b.progLenMax = .unbounded →
    load? b prog src = some (startRun b prog src)

/-- The host reads a result exactly at a terminal status; then it is the final state, a normal end has `pc = L`, and a
fault is reported with its kind and at `pc`. -/
def Obligations.ResultIsReadOnlyAtTheEnd : Prop :=
  ∀ s : State, s.Inv →
    (s.status = .running → s.result? = none) ∧
    (s.status = .halted → ∃ r, s.result? = some r ∧ r.status = 1#2 ∧ r.faultKind = 0#2 ∧ r.pc = s.progLen ∧
      r.output = s.output ∧ r.consumed = s.pulled.length ∧ r.tape = s.tape ∧ r.dp.toNat = s.dp.val ∧ r.ls = s.ls) ∧
    (s.status = .faulted → ∃ r, s.result? = some r ∧ r.status = 2#2 ∧ r.faultKind ≠ 0#2 ∧ r.faultPc = s.pc ∧
      r.pc = s.pc ∧ r.output = s.output ∧ r.consumed = s.pulled.length ∧ r.tape = s.tape ∧
      r.dp.toNat = s.dp.val ∧ r.ls = s.ls)

/-- A state that succeeded is not a faulted one: in a state that meets the invariant, the run succeeded exactly when
STATUS is HALTED. -/
def Obligations.SuccessIsExactlyAHalt : Prop :=
  ∀ s : State, s.Inv → (s.succeeded = true ↔ s.status = .halted) ∧
    (s.status = .faulted → s.succeeded = false ∧ s.faultKind ≠ .none)

end
end

