-- ==== Sys2Proof/Laws/State.lean ====
section
/-! SUPPORT. One lemma per field per named update of State, so that no proof unfolds a record update. -/
namespace Sys2Proof.Machine

/-! ### setTape -/

@[simp] theorem State.setTape_build (s : State) (m : Memory) : (s.setTape m).build = s.build := rfl
@[simp] theorem State.setTape_prog (s : State) (m : Memory) : (s.setTape m).prog = s.prog := rfl
@[simp] theorem State.setTape_tape (s : State) (m : Memory) : (s.setTape m).tape = m := rfl
@[simp] theorem State.setTape_dp (s : State) (m : Memory) : (s.setTape m).dp = s.dp := rfl
@[simp] theorem State.setTape_pc (s : State) (m : Memory) : (s.setTape m).pc = s.pc := rfl
@[simp] theorem State.setTape_ls (s : State) (m : Memory) : (s.setTape m).ls = s.ls := rfl
@[simp] theorem State.setTape_status (s : State) (m : Memory) : (s.setTape m).status = s.status := rfl
@[simp] theorem State.setTape_faultKind (s : State) (m : Memory) : (s.setTape m).faultKind = s.faultKind := rfl
@[simp] theorem State.setTape_faultPc (s : State) (m : Memory) : (s.setTape m).faultPc = s.faultPc := rfl
@[simp] theorem State.setTape_input (s : State) (m : Memory) : (s.setTape m).input = s.input := rfl
@[simp] theorem State.setTape_pulled (s : State) (m : Memory) : (s.setTape m).pulled = s.pulled := rfl
@[simp] theorem State.setTape_output (s : State) (m : Memory) : (s.setTape m).output = s.output := rfl

/-! ### setDp -/

@[simp] theorem State.setDp_build (s : State) (d : DataPointer) : (s.setDp d).build = s.build := rfl
@[simp] theorem State.setDp_prog (s : State) (d : DataPointer) : (s.setDp d).prog = s.prog := rfl
@[simp] theorem State.setDp_tape (s : State) (d : DataPointer) : (s.setDp d).tape = s.tape := rfl
@[simp] theorem State.setDp_dp (s : State) (d : DataPointer) : (s.setDp d).dp = d := rfl
@[simp] theorem State.setDp_pc (s : State) (d : DataPointer) : (s.setDp d).pc = s.pc := rfl
@[simp] theorem State.setDp_ls (s : State) (d : DataPointer) : (s.setDp d).ls = s.ls := rfl
@[simp] theorem State.setDp_status (s : State) (d : DataPointer) : (s.setDp d).status = s.status := rfl
@[simp] theorem State.setDp_faultKind (s : State) (d : DataPointer) : (s.setDp d).faultKind = s.faultKind := rfl
@[simp] theorem State.setDp_faultPc (s : State) (d : DataPointer) : (s.setDp d).faultPc = s.faultPc := rfl
@[simp] theorem State.setDp_input (s : State) (d : DataPointer) : (s.setDp d).input = s.input := rfl
@[simp] theorem State.setDp_pulled (s : State) (d : DataPointer) : (s.setDp d).pulled = s.pulled := rfl
@[simp] theorem State.setDp_output (s : State) (d : DataPointer) : (s.setDp d).output = s.output := rfl

/-! ### jump -/

@[simp] theorem State.jump_build (s : State) (p : Nat) : (s.jump p).build = s.build := rfl
@[simp] theorem State.jump_prog (s : State) (p : Nat) : (s.jump p).prog = s.prog := rfl
@[simp] theorem State.jump_tape (s : State) (p : Nat) : (s.jump p).tape = s.tape := rfl
@[simp] theorem State.jump_dp (s : State) (p : Nat) : (s.jump p).dp = s.dp := rfl
@[simp] theorem State.jump_pc (s : State) (p : Nat) : (s.jump p).pc = p := rfl
@[simp] theorem State.jump_ls (s : State) (p : Nat) : (s.jump p).ls = s.ls := rfl
@[simp] theorem State.jump_status (s : State) (p : Nat) : (s.jump p).status = s.status := rfl
@[simp] theorem State.jump_faultKind (s : State) (p : Nat) : (s.jump p).faultKind = s.faultKind := rfl
@[simp] theorem State.jump_faultPc (s : State) (p : Nat) : (s.jump p).faultPc = s.faultPc := rfl
@[simp] theorem State.jump_input (s : State) (p : Nat) : (s.jump p).input = s.input := rfl
@[simp] theorem State.jump_pulled (s : State) (p : Nat) : (s.jump p).pulled = s.pulled := rfl
@[simp] theorem State.jump_output (s : State) (p : Nat) : (s.jump p).output = s.output := rfl

/-! ### advance -/

@[simp] theorem State.advance_build (s : State) : (s.advance).build = s.build := rfl
@[simp] theorem State.advance_prog (s : State) : (s.advance).prog = s.prog := rfl
@[simp] theorem State.advance_tape (s : State) : (s.advance).tape = s.tape := rfl
@[simp] theorem State.advance_dp (s : State) : (s.advance).dp = s.dp := rfl
@[simp] theorem State.advance_pc (s : State) : (s.advance).pc = s.pc + 1 := rfl
@[simp] theorem State.advance_ls (s : State) : (s.advance).ls = s.ls := rfl
@[simp] theorem State.advance_status (s : State) : (s.advance).status = s.status := rfl
@[simp] theorem State.advance_faultKind (s : State) : (s.advance).faultKind = s.faultKind := rfl
@[simp] theorem State.advance_faultPc (s : State) : (s.advance).faultPc = s.faultPc := rfl
@[simp] theorem State.advance_input (s : State) : (s.advance).input = s.input := rfl
@[simp] theorem State.advance_pulled (s : State) : (s.advance).pulled = s.pulled := rfl
@[simp] theorem State.advance_output (s : State) : (s.advance).output = s.output := rfl

/-! ### setLs -/

@[simp] theorem State.setLs_build (s : State) (l : LoopStack) : (s.setLs l).build = s.build := rfl
@[simp] theorem State.setLs_prog (s : State) (l : LoopStack) : (s.setLs l).prog = s.prog := rfl
@[simp] theorem State.setLs_tape (s : State) (l : LoopStack) : (s.setLs l).tape = s.tape := rfl
@[simp] theorem State.setLs_dp (s : State) (l : LoopStack) : (s.setLs l).dp = s.dp := rfl
@[simp] theorem State.setLs_pc (s : State) (l : LoopStack) : (s.setLs l).pc = s.pc := rfl
@[simp] theorem State.setLs_ls (s : State) (l : LoopStack) : (s.setLs l).ls = l := rfl
@[simp] theorem State.setLs_status (s : State) (l : LoopStack) : (s.setLs l).status = s.status := rfl
@[simp] theorem State.setLs_faultKind (s : State) (l : LoopStack) : (s.setLs l).faultKind = s.faultKind := rfl
@[simp] theorem State.setLs_faultPc (s : State) (l : LoopStack) : (s.setLs l).faultPc = s.faultPc := rfl
@[simp] theorem State.setLs_input (s : State) (l : LoopStack) : (s.setLs l).input = s.input := rfl
@[simp] theorem State.setLs_pulled (s : State) (l : LoopStack) : (s.setLs l).pulled = s.pulled := rfl
@[simp] theorem State.setLs_output (s : State) (l : LoopStack) : (s.setLs l).output = s.output := rfl

/-! ### setInput -/

@[simp] theorem State.setInput_build (s : State) (i : InputSource) : (s.setInput i).build = s.build := rfl
@[simp] theorem State.setInput_prog (s : State) (i : InputSource) : (s.setInput i).prog = s.prog := rfl
@[simp] theorem State.setInput_tape (s : State) (i : InputSource) : (s.setInput i).tape = s.tape := rfl
@[simp] theorem State.setInput_dp (s : State) (i : InputSource) : (s.setInput i).dp = s.dp := rfl
@[simp] theorem State.setInput_pc (s : State) (i : InputSource) : (s.setInput i).pc = s.pc := rfl
@[simp] theorem State.setInput_ls (s : State) (i : InputSource) : (s.setInput i).ls = s.ls := rfl
@[simp] theorem State.setInput_status (s : State) (i : InputSource) : (s.setInput i).status = s.status := rfl
@[simp] theorem State.setInput_faultKind (s : State) (i : InputSource) : (s.setInput i).faultKind = s.faultKind := rfl
@[simp] theorem State.setInput_faultPc (s : State) (i : InputSource) : (s.setInput i).faultPc = s.faultPc := rfl
@[simp] theorem State.setInput_input (s : State) (i : InputSource) : (s.setInput i).input = i := rfl
@[simp] theorem State.setInput_pulled (s : State) (i : InputSource) : (s.setInput i).pulled = s.pulled := rfl
@[simp] theorem State.setInput_output (s : State) (i : InputSource) : (s.setInput i).output = s.output := rfl

/-! ### consume -/

@[simp] theorem State.consume_build (s : State) (b : Byte) (i : InputSource) : (s.consume b i).build = s.build := rfl
@[simp] theorem State.consume_prog (s : State) (b : Byte) (i : InputSource) : (s.consume b i).prog = s.prog := rfl
@[simp] theorem State.consume_tape (s : State) (b : Byte) (i : InputSource) : (s.consume b i).tape = s.tape := rfl
@[simp] theorem State.consume_dp (s : State) (b : Byte) (i : InputSource) : (s.consume b i).dp = s.dp := rfl
@[simp] theorem State.consume_pc (s : State) (b : Byte) (i : InputSource) : (s.consume b i).pc = s.pc := rfl
@[simp] theorem State.consume_ls (s : State) (b : Byte) (i : InputSource) : (s.consume b i).ls = s.ls := rfl
@[simp] theorem State.consume_status (s : State) (b : Byte) (i : InputSource) : (s.consume b i).status = s.status := rfl
@[simp] theorem State.consume_faultKind (s : State) (b : Byte) (i : InputSource) : (s.consume b i).faultKind = s.faultKind := rfl
@[simp] theorem State.consume_faultPc (s : State) (b : Byte) (i : InputSource) : (s.consume b i).faultPc = s.faultPc := rfl
@[simp] theorem State.consume_input (s : State) (b : Byte) (i : InputSource) : (s.consume b i).input = i := rfl
@[simp] theorem State.consume_pulled (s : State) (b : Byte) (i : InputSource) : (s.consume b i).pulled = s.pulled ++ [b] := rfl
@[simp] theorem State.consume_output (s : State) (b : Byte) (i : InputSource) : (s.consume b i).output = s.output := rfl

/-! ### outPush -/

@[simp] theorem State.outPush_build (s : State) (v : Byte) : (s.outPush v).build = s.build := rfl
@[simp] theorem State.outPush_prog (s : State) (v : Byte) : (s.outPush v).prog = s.prog := rfl
@[simp] theorem State.outPush_tape (s : State) (v : Byte) : (s.outPush v).tape = s.tape := rfl
@[simp] theorem State.outPush_dp (s : State) (v : Byte) : (s.outPush v).dp = s.dp := rfl
@[simp] theorem State.outPush_pc (s : State) (v : Byte) : (s.outPush v).pc = s.pc := rfl
@[simp] theorem State.outPush_ls (s : State) (v : Byte) : (s.outPush v).ls = s.ls := rfl
@[simp] theorem State.outPush_status (s : State) (v : Byte) : (s.outPush v).status = s.status := rfl
@[simp] theorem State.outPush_faultKind (s : State) (v : Byte) : (s.outPush v).faultKind = s.faultKind := rfl
@[simp] theorem State.outPush_faultPc (s : State) (v : Byte) : (s.outPush v).faultPc = s.faultPc := rfl
@[simp] theorem State.outPush_input (s : State) (v : Byte) : (s.outPush v).input = s.input := rfl
@[simp] theorem State.outPush_pulled (s : State) (v : Byte) : (s.outPush v).pulled = s.pulled := rfl
@[simp] theorem State.outPush_output (s : State) (v : Byte) : (s.outPush v).output = s.output ++ [v] := rfl

/-! ### halt -/

@[simp] theorem State.halt_build (s : State) : (s.halt).build = s.build := rfl
@[simp] theorem State.halt_prog (s : State) : (s.halt).prog = s.prog := rfl
@[simp] theorem State.halt_tape (s : State) : (s.halt).tape = s.tape := rfl
@[simp] theorem State.halt_dp (s : State) : (s.halt).dp = s.dp := rfl
@[simp] theorem State.halt_pc (s : State) : (s.halt).pc = s.pc := rfl
@[simp] theorem State.halt_ls (s : State) : (s.halt).ls = s.ls := rfl
@[simp] theorem State.halt_status (s : State) : (s.halt).status = .halted := rfl
@[simp] theorem State.halt_faultKind (s : State) : (s.halt).faultKind = s.faultKind := rfl
@[simp] theorem State.halt_faultPc (s : State) : (s.halt).faultPc = s.faultPc := rfl
@[simp] theorem State.halt_input (s : State) : (s.halt).input = s.input := rfl
@[simp] theorem State.halt_pulled (s : State) : (s.halt).pulled = s.pulled := rfl
@[simp] theorem State.halt_output (s : State) : (s.halt).output = s.output := rfl

/-! ### raise -/

@[simp] theorem State.raise_build (s : State) (k : FaultKind) : (s.raise k).build = s.build := rfl
@[simp] theorem State.raise_prog (s : State) (k : FaultKind) : (s.raise k).prog = s.prog := rfl
@[simp] theorem State.raise_tape (s : State) (k : FaultKind) : (s.raise k).tape = s.tape := rfl
@[simp] theorem State.raise_dp (s : State) (k : FaultKind) : (s.raise k).dp = s.dp := rfl
@[simp] theorem State.raise_pc (s : State) (k : FaultKind) : (s.raise k).pc = s.pc := rfl
@[simp] theorem State.raise_ls (s : State) (k : FaultKind) : (s.raise k).ls = s.ls := rfl
@[simp] theorem State.raise_status (s : State) (k : FaultKind) : (s.raise k).status = .faulted := rfl
@[simp] theorem State.raise_faultKind (s : State) (k : FaultKind) : (s.raise k).faultKind = k := rfl
@[simp] theorem State.raise_faultPc (s : State) (k : FaultKind) : (s.raise k).faultPc = s.pc := rfl
@[simp] theorem State.raise_input (s : State) (k : FaultKind) : (s.raise k).input = s.input := rfl
@[simp] theorem State.raise_pulled (s : State) (k : FaultKind) : (s.raise k).pulled = s.pulled := rfl
@[simp] theorem State.raise_output (s : State) (k : FaultKind) : (s.raise k).output = s.output := rfl

/-! ### setCell -/

@[simp] theorem State.setCell_build (s : State) (v : Byte) : (s.setCell v).build = s.build := rfl
@[simp] theorem State.setCell_prog (s : State) (v : Byte) : (s.setCell v).prog = s.prog := rfl
@[simp] theorem State.setCell_tape (s : State) (v : Byte) : (s.setCell v).tape = Memory.write s.tape s.dp.val v := rfl
@[simp] theorem State.setCell_dp (s : State) (v : Byte) : (s.setCell v).dp = s.dp := rfl
@[simp] theorem State.setCell_pc (s : State) (v : Byte) : (s.setCell v).pc = s.pc := rfl
@[simp] theorem State.setCell_ls (s : State) (v : Byte) : (s.setCell v).ls = s.ls := rfl
@[simp] theorem State.setCell_status (s : State) (v : Byte) : (s.setCell v).status = s.status := rfl
@[simp] theorem State.setCell_faultKind (s : State) (v : Byte) : (s.setCell v).faultKind = s.faultKind := rfl
@[simp] theorem State.setCell_faultPc (s : State) (v : Byte) : (s.setCell v).faultPc = s.faultPc := rfl
@[simp] theorem State.setCell_input (s : State) (v : Byte) : (s.setCell v).input = s.input := rfl
@[simp] theorem State.setCell_pulled (s : State) (v : Byte) : (s.setCell v).pulled = s.pulled := rfl
@[simp] theorem State.setCell_output (s : State) (v : Byte) : (s.setCell v).output = s.output := rfl

end Sys2Proof.Machine
end

