-- ==== Sys2Proof/Laws/Ops.lean ====
section
/-! SUPPORT. One lemma per shared operation that says what it can do: the tape, the Loop Stack, the input source, the
fetch, the arithmetic. -/
namespace Sys2Proof.Machine

/-! ### The tape -/

@[simp] theorem Memory.read_nil (a : Nat) : Memory.read [] a = 0#8 := rfl

theorem Memory.read_cons (k : Nat) (v : Byte) (m : Memory) (a : Nat) :
    Memory.read ((k, v) :: m) a = if k = a then v else Memory.read m a := rfl

theorem Memory.read_insert (m : Memory) (a b : Nat) (v : Byte) (h : ∀ c ∈ m, c.1 ≠ a) :
    Memory.read (Memory.insert a v m) b = if a = b then v else Memory.read m b := by
  induction m with
  | nil => rfl
  | cons c m ih =>
    obtain ⟨k, w⟩ := c
    have hk : k ≠ a := h (k, w) (by simp)
    simp only [Memory.insert]
    split
    · rfl
    · rw [Memory.read_cons, Memory.read_cons, ih fun c hc => h c (by simp [hc])]
      split_ifs <;> first | rfl | omega

theorem Memory.erase_avoids (m : Memory) (a : Nat) : ∀ c ∈ Memory.erase a m, c.1 ≠ a := by
  simp [Memory.erase]

theorem Memory.read_erase (m : Memory) (a b : Nat) :
    Memory.read (Memory.erase a m) b = if a = b then Memory.unlisted else Memory.read m b := by
  induction m with
  | nil => simp [Memory.erase, Memory.unlisted]
  | cons c m ih =>
    obtain ⟨k, w⟩ := c
    have hcons : Memory.erase a ((k, w) :: m) = if k = a then Memory.erase a m else (k, w) :: Memory.erase a m := by
      by_cases hk : k = a <;> simp [Memory.erase, hk]
    rw [hcons, Memory.read_cons]
    split
    · rw [ih]; split_ifs <;> first | rfl | omega
    · rw [Memory.read_cons, ih]; split_ifs <;> first | rfl | omega

/-- A write changes exactly one cell, on every list whatever (20_memory.md R34). -/
@[simp] theorem Memory.read_write (m : Memory) (a : Nat) (v : Byte) (b : Nat) :
    Memory.read (Memory.write m a v) b = if a = b then v else Memory.read m b := by
  unfold Memory.write
  split
  · next h => rw [Memory.read_erase, h]
  · rw [Memory.read_insert _ _ _ _ (Memory.erase_avoids m a), Memory.read_erase]
    split <;> rfl

theorem Memory.erase_wf {m : Memory} (h : Memory.wf m) (a : Nat) : Memory.wf (Memory.erase a m) :=
  ⟨h.1.filter _, fun c hc => h.2 c (List.mem_of_mem_filter hc)⟩

theorem Memory.mem_insert {m : Memory} {a : Nat} {v : Byte} {c : Host.Cell} (h : c ∈ Memory.insert a v m) :
    c = (a, v) ∨ c ∈ m := by
  induction m with
  | nil => simpa [Memory.insert] using h
  | cons d m ih =>
    simp only [Memory.insert] at h
    split at h
    · simpa using h
    · rcases List.mem_cons.1 h with rfl | h
      · simp
      · rcases ih h with h | h <;> simp [h]

theorem Memory.insert_wf {m : Memory} (h : Memory.wf m) {a : Nat} {v : Byte} (ha : a < 30000)
    (hv : v ≠ Memory.unlisted) (hm : ∀ c ∈ m, c.1 ≠ a) : Memory.wf (Memory.insert a v m) := by
  refine ⟨?_, fun c hc => ?_⟩
  · have hp := h.1
    clear h
    induction m with
    | nil => simp [Memory.insert]
    | cons d m ih =>
      obtain ⟨k, w⟩ := d
      have hk : k ≠ a := hm (k, w) (by simp)
      rw [List.pairwise_cons] at hp
      simp only [Memory.insert]
      split
      · next hlt =>
        refine List.pairwise_cons.2 ⟨fun c hc => ?_, List.pairwise_cons.2 hp⟩
        rcases List.mem_cons.1 hc with rfl | hc
        · exact hlt
        · exact Nat.lt_trans hlt (hp.1 c hc)
      · refine List.pairwise_cons.2 ⟨fun c hc => ?_, ih (fun c hc => hm c (by simp [hc])) hp.2⟩
        rcases Memory.mem_insert hc with rfl | hc
        · show k < a; omega
        · exact hp.1 c hc
  · rcases Memory.mem_insert hc with rfl | hc
    · exact ⟨ha, hv⟩
    · exact h.2 c hc

/-- Every write keeps the canonical form. -/
theorem Memory.write_wf {m : Memory} (h : Memory.wf m) {a : Nat} (ha : a < 30000) (v : Byte) :
    Memory.wf (Memory.write m a v) := by
  unfold Memory.write
  split
  · exact Memory.erase_wf h a
  · next hv => exact Memory.insert_wf (Memory.erase_wf h a) ha hv (Memory.erase_avoids m a)

/-- The reset tape is in canonical form. -/
theorem State.reset_tape_wf : Memory.wf State.reset.tape := by
  decide

theorem State.setCell_tape_wf {s : State} (h : Memory.wf s.tape) (v : Byte) : Memory.wf (s.setCell v).tape :=
  Memory.write_wf h s.dp.isLt v

/-! ### The Loop Stack -/

@[simp] theorem LoopStack.top?_push (l : LoopStack) (p : Nat) : LoopStack.top? (LoopStack.push l p) = some p := by
  simp [LoopStack.top?, LoopStack.push]

@[simp] theorem LoopStack.pop_push (l : LoopStack) (p : Nat) : LoopStack.pop (LoopStack.push l p) = l := by
  simp [LoopStack.pop, LoopStack.push]

@[simp] theorem LoopStack.depth_push (l : LoopStack) (p : Nat) :
    LoopStack.depth (LoopStack.push l p) = LoopStack.depth l + 1 := by
  simp [LoopStack.depth, LoopStack.push]

theorem LoopStack.top?_eq_none {l : LoopStack} : LoopStack.top? l = none ↔ l = [] := by
  simp [LoopStack.top?]

theorem LoopStack.top?_eq_some {l : LoopStack} {q : Nat} :
    LoopStack.top? l = some q ↔ l = LoopStack.push (LoopStack.pop l) q := by
  simp only [LoopStack.top?, LoopStack.push, LoopStack.pop]
  constructor
  · intro h
    exact (List.dropLast_append_getLast? q h).symm
  · intro h
    rw [h]
    simp

theorem LoopStack.full_iff {l : LoopStack} {c : Capacity} :
    LoopStack.full l c = true ↔ c = .bounded l.length := by
  cases c with
  | unbounded => simp [LoopStack.full]
  | bounded n => simp [LoopStack.full, LoopStack.depth, eq_comm]

/-! ### The input source -/

/-- `Exhausted` does not move the source (20_memory.md R36). -/
theorem InputSource.pull_exhausted {src src' : InputSource} (h : src.pull = (.exhausted, src')) : src' = src := by
  unfold InputSource.pull at h
  split at h
  case h_6 n =>
    split at h <;> simp only [Prod.mk.injEq, reduceCtorEq, false_and, true_and] at h
    exact h.symm
  all_goals simp only [Prod.mk.injEq, reduceCtorEq, false_and, true_and] at h
  all_goals exact h.symm

/-- A buffer's answers. -/
theorem InputSource.pull_buffer (bs : List Byte) :
    (InputSource.buffer bs).pull =
      match bs with
      | [] => (.exhausted, .buffer [])
      | b :: rest => (.byte b, .buffer rest) := by
  cases bs <;> rfl

/-! ### Fetch -/

theorem State.fetch_eq_none {s : State} : s.fetch = none ↔ s.progLen ≤ s.pc := by
  simp [State.fetch, State.progLen]

theorem State.fetch_lt {s : State} {c : Byte} (h : s.fetch = some c) : s.pc < s.progLen := by
  simp only [State.fetch] at h
  exact (List.getElem?_eq_some_iff.1 h).1

/-! ### Arithmetic -/

theorem aluInc_toNat (v : Byte) : (aluInc v).toNat = (v.toNat + 1) % 256 := by
  simp [aluInc, BitVec.toNat_add]

theorem aluDec_toNat (v : Byte) : (aluDec v).toNat = (v.toNat + 255) % 256 := by
  have h : (v - 1#8 : Byte).toNat = (256 - 1 + v.toNat) % 256 := BitVec.toNat_sub v 1#8
  rw [aluDec, h]
  congr 1
  omega

theorem pointerRight_val (d : DataPointer) : (pointerRight d).val = (d.val + 1) % 30000 := by
  have := d.isLt
  unfold pointerRight
  split
  · next h => rw [h]
  · show d.val + 1 = _; omega

theorem pointerLeft_val (d : DataPointer) : (pointerLeft d).val = (d.val + 29999) % 30000 := by
  have := d.isLt
  unfold pointerLeft
  split
  · next h => rw [h]
  · show d.val - 1 = _; omega

theorem State.cellIsZero_iff {s : State} : s.cellIsZero = true ↔ s.cell = 0#8 := by
  simp [State.cellIsZero, aluIsZero]

end Sys2Proof.Machine
end

