-- ==== Sys2Proof/Laws/PerInstr.lean ====
section
/-! SUPPORT. The per-instruction families. EncodingInTable: the character of a well-formed instruction matches its row of
spec/opcode_table.json, and no row of another of the eight exact codes. -/
namespace Sys2Proof.Laws.EncodingInTable

/-- The eight instructions whose row of the table has an exact code. -/
def exactRows : List Instr := [.inc, .dec, .right, .left, .output, .input, .openLoop, .closeLoop]

/-- The instruction's character matches its row, and every exact row it matches is its own. -/
def Statement (i : Instr) : Prop :=
  i.wellFormed = true →
    encode i &&& tableMask i = tableMatch i ∧ ∀ j ∈ exactRows, encode i &&& tableMask j = tableMatch j → j = i

theorem inc : Statement .inc := by unfold Statement; decide
theorem dec : Statement .dec := by unfold Statement; decide
theorem right : Statement .right := by unfold Statement; decide
theorem left : Statement .left := by unfold Statement; decide
theorem output : Statement .output := by unfold Statement; decide
theorem input : Statement .input := by unfold Statement; decide
theorem openLoop : Statement .openLoop := by unfold Statement; decide
theorem closeLoop : Statement .closeLoop := by unfold Statement; decide
theorem nop (code : Byte) : Statement (.nop code) := by
  intro h
  have hc : ∀ c ∈ instructionCodes, code ≠ c := by
    rintro c hc rfl
    simp [Instr.wellFormed, isInstructionCode, hc] at h
  refine ⟨by simp [tableMask, tableMatch], fun j hj he => ?_⟩
  have key : ∀ j ∈ exactRows, tableMask j = BitVec.allOnes 8 ∧ tableMatch j ∈ instructionCodes := by decide
  obtain ⟨hm, hi⟩ := key j hj
  rw [hm, BitVec.and_allOnes] at he
  exact absurd he (hc _ hi)

end Sys2Proof.Laws.EncodingInTable
end

