-- ==== Sys2Proof/Laws/Step.lean ====
section
/-! SUPPORT. What each meaning answers and what a step can do, said once. -/
namespace Sys2Proof.Machine

/-! ### The meanings -/

theorem exec_inc (s : State) : exec .inc s = .next (s.setCell (aluInc s.cell)).advance := rfl

theorem exec_dec (s : State) : exec .dec s = .next (s.setCell (aluDec s.cell)).advance := rfl

theorem exec_right (s : State) : exec .right s = .next (s.setDp (pointerRight s.dp)).advance := rfl

theorem exec_left (s : State) : exec .left s = .next (s.setDp (pointerLeft s.dp)).advance := rfl

theorem exec_output (s : State) : exec .output s = .next (s.outPush s.cell).advance := rfl

theorem exec_nop (c : Byte) (s : State) : exec (.nop c) s = .next s.advance := rfl

/-- Everything IN can do: one case for each answer of the source (43_io.md R86 to R88). -/
theorem exec_input_cases (s : State) :
    (∃ b src, s.input.pull = (.byte b, src) ∧ exec .input s = .next ((s.consume b src).setCell b).advance) ∨
    (∃ src, s.input.pull = (.notReady, src) ∧ exec .input s = .next (s.setInput src)) ∨
    (∃ src, s.input.pull = (.exhausted, src) ∧ exec .input s = .next (s.raise .inputExhausted)) := by
  rcases h : s.input.pull with ⟨_ | _ | _, src⟩ <;> simp [exec, execInput, h]

/-- Everything OPEN can do (44_loop_control.md R93, R94). -/
theorem exec_open_cases (s : State) :
    (s.build.loopStackDepth = .bounded s.ls.length ∧ exec .openLoop s = .next (s.raise .nestingLimitExceeded)) ∨
    (s.build.loopStackDepth ≠ .bounded s.ls.length ∧
      exec .openLoop s = .next (s.setLs (LoopStack.push s.ls s.pc)).advance) := by
  by_cases h : LoopStack.full s.ls s.build.loopStackDepth = true
  · exact .inl ⟨LoopStack.full_iff.1 h, by simp [exec, execOpen, h]⟩
  · exact .inr ⟨fun h' => h (LoopStack.full_iff.2 h'), by simp [exec, execOpen, h]⟩

/-- Everything CLOSE can do (44_loop_control.md R95 to R97). -/
theorem exec_close_cases (s : State) :
    (s.ls = [] ∧ exec .closeLoop s = .next (s.raise .malformedProgram)) ∨
    (∃ l q, s.ls = l ++ [q] ∧ s.cell = 0#8 ∧ exec .closeLoop s = .next (s.setLs l).advance) ∨
    (∃ l q, s.ls = l ++ [q] ∧ s.cell ≠ 0#8 ∧ exec .closeLoop s = .next (s.jump (q + 1))) := by
  cases h : LoopStack.top? s.ls with
  | none => exact .inl ⟨LoopStack.top?_eq_none.1 h, by simp [exec, execClose, h]⟩
  | some q =>
    have hl := LoopStack.top?_eq_some.1 h
    by_cases hz : s.cellIsZero = true
    · exact .inr (.inl ⟨_, q, hl, State.cellIsZero_iff.1 hz, by simp [exec, execClose, h, hz]⟩)
    · exact .inr (.inr ⟨_, q, hl, fun h0 => hz (State.cellIsZero_iff.2 h0), by simp [exec, execClose, h, hz]⟩)

/-! ### The step -/

theorem step_running {s : State} {c : Byte} (h : s.status = .running) (hc : s.fetch = some c) :
    step s = exec (decode c) s := by
  simp [step, h, hc]

/-- Everything a step can do when it answers a next state (40_step_cycle.md R65): the halt transition, or one
instruction. -/
theorem step_cases {s t : State} (h : step s = .next t) :
    s.status = .running ∧
      ((s.fetch = none ∧ t = s.halt) ∨ ∃ c, s.fetch = some c ∧ exec (decode c) s = .next t) := by
  unfold step at h
  split at h
  · exact absurd h (by simp)
  · exact absurd h (by simp)
  · next hs =>
    split at h
    · next hf => exact ⟨hs, .inl ⟨hf, by simpa using h.symm⟩⟩
    · next c hf => exact ⟨hs, .inr ⟨c, hf, h⟩⟩

end Sys2Proof.Machine
end

