-- ==== Sys2Proof/Tests/Slice0.lean ====
section
/-! SUPPORT. Small tests, their expected results taken from spec/95_test_vectors.md and the worked examples of the
rules; and for each statement with hypotheses a concrete state that meets them. -/
namespace Sys2Proof.Tests
open Sys2Proof Sys2Proof.Machine

/-- The next state of an outcome. -/
def nextOf (o : Host.Outcome State Fault Refusal) : Option State :=
  match o with
  | .next s => some s
  | .fault _ | .refused _ => none

/-- A run of a program with a finite input, at its start. -/
def start (prog : List Byte) (bytes : List Byte := []) : State := startRun .reference prog (.buffer bytes)

/-- A running state with a tape, a pointer, a position and a stack. -/
def at' (prog : List Byte) (tape : Memory) (dp : DataPointer) (pc : Nat) (ls : LoopStack := []) : State :=
  { start prog with tape := tape, dp := dp, pc := pc, ls := ls }

/-- A state whose bounded stack is full at depth `ls.length`. -/
def fullAt (prog : List Byte) (pc : Nat) (ls : LoopStack) : State :=
  { at' prog [] 0 pc ls with build := { loopStackDepth := .bounded ls.length, progLenMax := .unbounded } }

/-! ### Well-formedness -/

/-- Each of the eight codes is refused in a NOP (45_nop.md R103). -/
theorem test_nop_with_an_instruction_code_is_ill_formed :
    ∀ c ∈ instructionCodes, (Instr.nop c).wellFormed = false := by decide

theorem test_nop_with_code_between_angle_brackets_is_well_formed : (Instr.nop 0x3D#8).wellFormed = true := by decide

/-! ### Decode: the binary column of 30_encoding.md R51, and V-D1 to V-D20 -/

theorem test_decode_inc : decode 0b00101011#8 = .inc := by decide
theorem test_decode_dec : decode 0b00101101#8 = .dec := by decide
theorem test_decode_right : decode 0b00111110#8 = .right := by decide
theorem test_decode_left : decode 0b00111100#8 = .left := by decide
theorem test_decode_output : decode 0b00101110#8 = .output := by decide
theorem test_decode_input : decode 0b00101100#8 = .input := by decide
theorem test_decode_open : decode 0b01011011#8 = .openLoop := by decide
theorem test_decode_close : decode 0b01011101#8 = .closeLoop := by decide
/-- V-D9 to V-D20. -/
theorem test_decode_nops :
    ∀ c ∈ [0x00#8, 0x0A#8, 0x20#8, 0x2A#8, 0x2F#8, 0x3D#8, 0x5C#8, 0x28#8, 0x29#8, 0x7B#8, 0x7D#8, 0x61#8, 0xAB#8,
      0x0B#8, 0xFF#8], decode c = .nop c := by decide

/-- A table word is read as the hardware stores it; a list with no character is rejected by name. -/
theorem test_decode_table_words :
    decodeTableWord 8 0x5B = some .openLoop ∧ decodeTableWord 8 0 = some (.nop 0x00#8) ∧
      decodeBytes [] = .error .noCharacter := by decide

/-- The next step runs the word placed at `pc`, right after reset: OPEN leaves `ls = [0]`. -/
theorem test_placed_word_runs :
    (nextOf (step (State.reset.withFetchWord 8 0x5B))).map (fun t => (t.ls, t.pc)) = some ([0], 1) := by decide

/-! ### Instructions -/

/-- R75's worked example: 255 becomes 0, and the entry goes. -/
theorem test_inc_wraps :
    (nextOf (exec .inc (at' [] [(0, 255#8)] 0 7))).map (fun t => (t.tape, t.pc)) = some ([], 8) := by decide

/-- V-A9: the last cell is an ordinary cell. -/
theorem test_inc_last_cell :
    (nextOf (exec .inc (at' [] [(3, 9#8)] 29999 0))).map (·.tape) = some [(3, 9#8), (29999, 1#8)] := by decide

/-- R76's worked example: 0 becomes 255. -/
theorem test_dec_wraps :
    (nextOf (exec .dec (at' [] [] 0 0))).map (fun t => (t.tape, t.pc)) = some ([(0, 255#8)], 1) := by decide

/-- V-A7. -/
theorem test_dec_128 : (nextOf (exec .dec (at' [] [(5, 128#8)] 5 0))).map (·.tape) = some [(5, 127#8)] := by decide

/-- V-P3, R80's worked example. -/
theorem test_right_wraps :
    (nextOf (exec .right (at' [] [] 29999 3))).map (fun t => (t.dp, t.pc)) = some (0, 4) := by decide

/-- V-P2. -/
theorem test_right_below_the_last : (nextOf (exec .right (at' [] [] 29998 0))).map (·.dp) = some 29999 := by decide

/-- V-P4, R81's worked example. -/
theorem test_left_wraps :
    (nextOf (exec .left (at' [] [] 0 0))).map (fun t => (t.dp, t.pc)) = some (29999, 1) := by decide

/-- V-P5. -/
theorem test_left_to_zero : (nextOf (exec .left (at' [] [] 1 0))).map (·.dp) = some 0 := by decide

/-- R85's worked example: output `[65]`, the cell keeps 65. -/
theorem test_output_appends :
    (nextOf (exec .output (at' [] [(0, 65#8)] 0 1))).map (fun t => (t.output, t.tape, t.pc)) =
      some ([65#8], [(0, 65#8)], 2) := by decide

/-- S5's first step: `,` with input 65. -/
theorem test_input_stores :
    (nextOf (step (start [0x2C#8] [65#8]))).map (fun t => (t.tape, t.pc, t.input, t.pulled)) =
      some ([(0, 65#8)], 1, .buffer [], [65#8]) := by decide

/-- V-I8's last step: the cell keeps 3, the fault is recorded at 3. -/
theorem test_input_exhausted :
    nextOf (exec .input (at' [] [(0, 3#8)] 0 3)) =
      some { at' [] [(0, 3#8)] 0 3 with status := .faulted, faultKind := .inputExhausted, faultPc := 3 } := by decide

/-- V-L1: no skip although the cell is 0. -/
theorem test_open_pushes :
    (nextOf (exec .openLoop (at' [] [] 0 4))).map (fun t => (t.ls, t.pc)) = some ([4], 5) := by decide

/-- V-L25's last step: N = 2, `ls = [0, 1]`. -/
theorem test_open_full :
    nextOf (exec .openLoop (fullAt [] 2 [0, 1])) =
      some { fullAt [] 2 [0, 1] with status := .faulted, faultKind := .nestingLimitExceeded, faultPc := 2 } := by decide

/-- V-L3 and V-L5: exit on 0, loop back on 255 to just after the top. -/
theorem test_close_exit_and_loop_back :
    (nextOf (exec .closeLoop (at' [] [] 0 9 [1, 4]))).map (fun t => (t.ls, t.pc)) = some ([1], 10) ∧
    (nextOf (exec .closeLoop (at' [] [(0, 255#8)] 0 9 [1, 4]))).map (fun t => (t.ls, t.pc)) = some ([1, 4], 5) := by
  decide

/-- V-L7: the emptiness test comes before the cell test. -/
theorem test_close_empty :
    (nextOf (exec .closeLoop (at' [] [(0, 3#8)] 0 9))).map (fun t => (t.status, t.faultKind, t.faultPc, t.pc)) =
      some (.faulted, .malformedProgram, 9, 9) := by decide

/-- R103's worked example, the first step of `a]`. -/
theorem test_nop_advances : (nextOf (step (start [0x61#8, 0x5D#8]))).map (·.pc) = some 1 := by decide

/-! ### The step and the host -/

/-- V-N1: the empty program halts with nothing executed. -/
theorem test_empty_program_halts : nextOf (step (start [])) = some { start [] with status := .halted } := by decide

/-- The live source of 95_test_vectors.md 2.4 that answers NotReady twice and then `Byte(5)`: the first step of `,`
changes nothing. -/
theorem test_stall :
    (nextOf (step (startRun .reference [0x2C#8] (.live [.notReady, .notReady, .byte 5#8] 0)))).map
      (fun t => (t.pc, t.tape, t.input)) = some (0, [], .live [.notReady, .byte 5#8] 0) := by decide

/-- S4's result: STATUS 2, FAULT_KIND 1, FAULT_PC 0. -/
theorem test_result_of_malformed :
    ((nextOf (step (start [0x5D#8]))).bind State.result?).map (fun r => (r.status, r.faultKind, r.faultPc)) =
      some (2#2, 1#2, 0) := by decide

/-! ### Witnesses: a state and operands that meet each statement's hypotheses -/

theorem witness_EightCodesDecodeOthersAreNop :
    0xAB#8 ≠ 0x2B#8 ∧ 0xAB#8 ≠ 0x2D#8 ∧ 0xAB#8 ≠ 0x3E#8 ∧ 0xAB#8 ≠ 0x3C#8 ∧ 0xAB#8 ≠ 0x2E#8 ∧ 0xAB#8 ≠ 0x2C#8 ∧
      0xAB#8 ≠ 0x5B#8 ∧ 0xAB#8 ≠ 0x5D#8 := by decide
theorem witness_DecodeOfEncodeIsTheInstruction :
    Instr.wellFormed .openLoop = true ∧ Instr.wellFormed (.nop 0x5C#8) = true := by decide
theorem witness_EveryCodeEncodesExactlyOneInstruction :
    Instr.wellFormed (.nop 0xFF#8) = true ∧ encode (.nop 0xFF#8) = 0xFF#8 := by decide
theorem witness_WideCharactersAreCommentsInPlace :
    0x12B ∉ [0x2B, 0x2D, 0x3E, 0x3C, 0x2E, 0x2C, 0x5B, 0x5D] ∧ 0xFF ∉ [0x2B, 0x2D, 0x3E, 0x3C, 0x2E, 0x2C, 0x5B, 0x5D] :=
  by decide
theorem witness_StepRunsTheDecodedInstruction :
    (start [0x2B#8]).status = .running ∧ (start [0x2B#8]).prog[(start [0x2B#8]).pc]? = some 0x2B#8 := by decide
/-- At the boundary `pc = L`, with an unmatched `[` left on the stack. -/
theorem witness_HaltTransitionOnlySetsStatus :
    (at' [0x5B#8] [] 0 1 [0]).status = .running ∧ (at' [0x5B#8] [] 0 1 [0]).progLen ≤ (at' [0x5B#8] [] 0 1 [0]).pc := by
  decide
/-- One witness for each of the four cases: fault, stall, loop-back, advance. -/
theorem witness_ProgramCounterAdvance :
    (∃ t, exec .closeLoop (start []) = .next t ∧ t.status = .faulted) ∧
    (∃ t, exec .input (startRun .reference [] (.live [.notReady] 0)) = .next t ∧ t.status = .running) ∧
    (∃ t, exec .closeLoop (at' [] [(0, 1#8)] 0 5 [4]) = .next t ∧ t.pc = 5) ∧
    (∃ t, exec .closeLoop (at' [] [] 0 5 [4]) = .next t ∧ t.pc = 6) ∧ (start []).status = .running :=
  ⟨⟨_, rfl, rfl⟩, ⟨_, rfl, rfl⟩, ⟨_, rfl, rfl⟩, ⟨_, rfl, rfl⟩, rfl⟩
/-- The loop of V-L23. -/
theorem witness_EmptyBodyWithNonZeroCellLoopsForEver :
    (at' [0x2B#8, 0x5B#8, 0x5D#8] [(0, 1#8)] 0 2 [1]).fetch = some 0x5D#8 ∧
    (at' [0x2B#8, 0x5B#8, 0x5D#8] [(0, 1#8)] 0 2 [1]).ls = [] ++ [1] ∧
    (at' [0x2B#8, 0x5B#8, 0x5D#8] [(0, 1#8)] 0 2 [1]).pc = 1 + 1 ∧
    (at' [0x2B#8, 0x5B#8, 0x5D#8] [(0, 1#8)] 0 2 [1]).cell ≠ 0#8 ∧
    (at' [0x2B#8, 0x5B#8, 0x5D#8] [(0, 1#8)] 0 2 [1]).status = .running := by decide
/-- At the wraps: a cell of 255 for INC then DEC, of 0 for DEC then INC. -/
theorem witness_IncAndDecUndoEachOther :
    (∃ t u, exec .inc (at' [] [(7, 255#8)] 7 0) = .next t ∧ exec .dec t = .next u) ∧
    (∃ t u, exec .dec (at' [] [] 7 0) = .next t ∧ exec .inc t = .next u) ∧ Memory.wf [(7, 255#8)] :=
  ⟨⟨_, _, rfl, rfl⟩, ⟨_, _, rfl, rfl⟩, by decide⟩
/-- The values where the clauses of R78 meet the wrap, and `k = 256 - v` at its ends. -/
theorem witness_CellArithmeticLaws :
    (254#8).toNat < 255 ∧ 0 < (1#8).toNat ∧ 256 % 256 = (256 - (0#8).toNat) % 256 ∧ 1 % 256 = (256 - (255#8).toNat) % 256 :=
  by decide
theorem witness_InStoresTheDeliveredByte :
    (start [] [0#8]).input.pull = (.byte 0#8, .buffer []) ∧
    (startRun .reference [] (.live [.byte 255#8] 0)).input.pull = (.byte 255#8, .live [] 0) := by decide
theorem witness_InStallChangesNothing :
    (startRun .reference [] (.live [.notReady, .byte 5#8] 0)).input.pull = (.notReady, .live [.byte 5#8] 0) := by decide
theorem witness_StallsEndAsIfServedAtOnce :
    (startRun .reference [0x2C#8] (.live [.notReady, .notReady, .byte 5#8] 0)).status = .running ∧
    (startRun .reference [0x2C#8] (.live [.notReady, .notReady, .byte 5#8] 0)).fetch = some 0x2C#8 ∧
    (startRun .reference [0x2C#8] (.live [.notReady, .notReady, .byte 5#8] 0)).input =
      .live (List.replicate 2 .notReady ++ .byte 5#8 :: []) 0 := by decide
theorem witness_InFaultsOnExhaustedInput : (start []).input.pull = (.exhausted, .buffer []) := by decide
theorem witness_InPullAnswers :
    (InputSource.buffer []).pull.1 = .exhausted ∧ (InputSource.live [.exhausted, .byte 1#8] 0).pull.1 = .exhausted := by
  decide
theorem witness_BufferIsConsumedInOrder :
    ∃ t, step (start [0x2C#8] [1#8, 2#8]) = .next t ∧ (start [0x2C#8] [1#8, 2#8]).input = .buffer [1#8, 2#8] :=
  ⟨_, rfl, rfl⟩
theorem witness_OutputIsAppendOnly :
    (∃ t, step (start [0x2E#8]) = .next t ∧ t.output = [0#8]) ∧ ∃ t, step (start [0x2B#8]) = .next t ∧ t.output = [] :=
  ⟨⟨_, rfl, rfl⟩, _, rfl, rfl⟩
theorem witness_OutputIsNeverReadBack : ∃ t, step (start [0x2E#8]) = .next t := ⟨_, rfl⟩
theorem witness_InputIsNeverReadAhead :
    ∃ t, step (start [0x2C#8] [1#8]) = .next t ∧
      (InputSource.buffer [1#8, 9#8]).pull.1 = (start [0x2C#8] [1#8]).input.pull.1 := ⟨_, rfl, rfl⟩
/-- Unbounded, bounded with one slot left, and a cell of 0. -/
theorem witness_OpenPushesItsPosition :
    (start []).build.loopStackDepth ≠ .bounded (start []).ls.length ∧
    ({ fullAt [] 2 [0, 1] with ls := [0] }).build.loopStackDepth ≠ .bounded 1 := by decide
theorem witness_OpenFaultsOnFullStack :
    (fullAt [] 2 [0, 1]).build.loopStackDepth = .bounded (fullAt [] 2 [0, 1]).ls.length := by decide
theorem witness_CloseExitsOnZero :
    (at' [] [] 0 9 [1, 4]).ls = [1] ++ [4] ∧ Memory.read (at' [] [] 0 9 [1, 4]).tape 0 = 0#8 := by decide
theorem witness_CloseFaultsOnEmptyStack : (at' [] [(0, 3#8)] 0 9).ls = [] := by decide

/-- The invariant at the CLOSE of `[]`, with a cell of 1. -/
theorem inv_at_close : (at' [0x5B#8, 0x5D#8] [(0, 1#8)] 0 1 [0]).Inv :=
  ⟨by decide, by decide, by decide, ⟨rfl, rfl⟩, by decide, by decide⟩
theorem witness_CloseLoopsBackOnNonZero :
    (at' [] [(0, 1#8)] 0 9 [4]).ls = [] ++ [4] ∧ Memory.read (at' [] [(0, 1#8)] 0 9 [4]).tape 0 ≠ 0#8 ∧
    (at' [0x5B#8, 0x5D#8] [(0, 1#8)] 0 1 [0]).Inv ∧
    (at' [0x5B#8, 0x5D#8] [(0, 1#8)] 0 1 [0]).fetch = some 0x5D#8 ∧
    (at' [0x5B#8, 0x5D#8] [(0, 1#8)] 0 1 [0]).ls = [] ++ [0] := ⟨rfl, by decide, inv_at_close, rfl, rfl⟩
theorem witness_LoopBackGoesToTheMatchingOpen :
    (at' [0x5B#8, 0x5D#8] [(0, 1#8)] 0 1 [0]).Inv ∧ (at' [0x5B#8, 0x5D#8] [(0, 1#8)] 0 1 [0]).status = .running ∧
    (at' [0x5B#8, 0x5D#8] [(0, 1#8)] 0 1 [0]).fetch = some 0x5D#8 ∧
    (at' [0x5B#8, 0x5D#8] [(0, 1#8)] 0 1 [0]).ls = [] ++ [0] ∧
    (at' [0x5B#8, 0x5D#8] [(0, 1#8)] 0 1 [0]).cell ≠ 0#8 ∧
    ∃ t, step (at' [0x5B#8, 0x5D#8] [(0, 1#8)] 0 1 [0]) = .next t :=
  ⟨inv_at_close, rfl, rfl, rfl, by decide, _, rfl⟩
/-- Two open brackets and a closed one before `pc`, in `[[[]`: the stack is `[0, 1]`. -/
theorem witness_LoopStackIsExactlyTheUnmatchedOpens :
    (at' [0x5B#8, 0x5B#8, 0x5B#8, 0x5D#8] [] 0 4 [0, 1]).Inv ∧
      (at' [0x5B#8, 0x5B#8, 0x5B#8, 0x5D#8] [] 0 4 [0, 1]).ls ≠ [] :=
  ⟨⟨by decide, by decide, by decide, ⟨rfl, rfl⟩, by decide, by decide⟩, by decide⟩
theorem witness_StackDepthCountsPushesAndPops :
    (stepN 2 (start [0x5B#8, 0x5D#8])).isSome = true ∧ countSteps State.pushes 2 (start [0x5B#8, 0x5D#8]) = 1 ∧
      countSteps State.pops 2 (start [0x5B#8, 0x5D#8]) = 1 := by decide
/-- At the boundary: room for exactly the one `[` of the program, about to be pushed. -/
theorem witness_RoomyBoundedStackActsUnbounded :
    (startRun { loopStackDepth := .bounded 1, progLenMax := .unbounded } [0x5B#8] (.buffer [])).Inv ∧
    bracketCount [0x5B#8] ≤ 1 ∧
    ∃ t, step (startRun { loopStackDepth := .bounded 1, progLenMax := .unbounded } [0x5B#8] (.buffer [])) = .next t :=
  ⟨⟨by decide, by decide, by decide, ⟨rfl, rfl⟩, by decide, by decide⟩, by decide, _, rfl⟩
theorem witness_NopOnlyAdvances :
    0x5C#8 ∉ [0x2B#8, 0x2D#8, 0x3E#8, 0x3C#8, 0x2E#8, 0x2C#8, 0x5B#8, 0x5D#8] := by decide
/-- One witness for each row of the table of R110. -/
theorem witness_FaultsAreExactlyTheTable :
    (∃ t, exec .closeLoop (start []) = .next t ∧ t.faultKind = .malformedProgram) ∧
    (∃ t, exec .input (start []) = .next t ∧ t.faultKind = .inputExhausted) ∧
    (∃ t, exec .openLoop (fullAt [] 2 [0, 1]) = .next t ∧ t.faultKind = .nestingLimitExceeded) ∧
    (start []).status = .running ∧ (fullAt [] 2 [0, 1]).status = .running :=
  ⟨⟨_, rfl, rfl⟩, ⟨_, rfl, rfl⟩, ⟨_, rfl, rfl⟩, rfl, rfl⟩
theorem witness_FaultEntryWritesOnlyTheStatusRegisters :
    ∃ t, step (start [0x5D#8]) = .next t ∧ t.status = .faulted := ⟨_, rfl, rfl⟩
theorem witness_TerminalStatusTakesNoStep :
    ({ start [] with status := .halted }).status ≠ .running ∧ ({ start [] with status := .faulted }).status ≠ .running ∧
    stepN 0 { start [] with status := .halted } = some { start [] with status := .halted } := by decide
/-- One witness for each clause: an instruction that writes the part it is allowed to write. -/
theorem witness_EachPartIsWrittenOnlyByItsInstructions :
    (∃ t, exec .inc (start []) = .next t ∧ t.tape ≠ (start []).tape) ∧
    (∃ t, exec .left (start []) = .next t ∧ t.dp ≠ (start []).dp) ∧
    (∃ t, exec .openLoop (start []) = .next t ∧ t.ls ≠ (start []).ls) ∧
    (∃ t, exec .output (start []) = .next t ∧ t.output ≠ (start []).output) ∧
    (∃ t, exec .input (start [] [1#8]) = .next t ∧ t.input ≠ (start [] [1#8]).input ∧ t.pulled ≠ []) ∧
    (∃ t, exec .closeLoop (start []) = .next t ∧ t.status ≠ .running) :=
  ⟨⟨_, rfl, by decide⟩, ⟨_, rfl, by decide⟩, ⟨_, rfl, by decide⟩, ⟨_, rfl, by decide⟩, ⟨_, rfl, by decide, by decide⟩,
    ⟨_, rfl, by decide⟩⟩
theorem witness_OnlyTheCurrentCellIsWritten : (∃ t, step (start [0x2B#8]) = .next t) ∧ 1 ≠ (start [0x2B#8]).dp.val :=
  ⟨⟨_, rfl⟩, by decide⟩
theorem witness_OnlyTheCurrentCellIsRead :
    (∃ t, step (start [0x2E#8]) = .next t) ∧
      Memory.read [(1, 9#8)] (start [0x2E#8]).dp.val = Memory.read (start [0x2E#8]).tape (start [0x2E#8]).dp.val :=
  ⟨⟨_, rfl⟩, by decide⟩
theorem witness_CanonicalTapesAreEqualWhenTheyReadEqual :
    Memory.wf [(3, 9#8)] ∧ ∀ a : Nat, a < 30000 → Memory.read [(3, 9#8)] a = Memory.read (Memory.write [] 3 9#8) a :=
  ⟨by decide, fun _ _ => rfl⟩
theorem witness_StepKeepsTheTapeCanonical :
    Memory.wf (at' [0x2D#8] [(0, 1#8), (29999, 2#8)] 0 0).tape ∧
      ∃ t, step (at' [0x2D#8] [(0, 1#8), (29999, 2#8)] 0 0) = .next t := ⟨by decide, _, rfl⟩
theorem witness_StepKeepsTheInvariant :
    (at' [0x5B#8, 0x5D#8] [(0, 1#8)] 0 1 [0]).Inv ∧
      ∃ t, step (at' [0x5B#8, 0x5D#8] [(0, 1#8)] 0 1 [0]) = .next t := ⟨inv_at_close, _, rfl⟩
theorem witness_ResetAndLoadMeetTheInvariant :
    load? { loopStackDepth := .bounded 1, progLenMax := .bounded 1 } [0x5D#8] (.buffer [1#8]) =
      some (startRun { loopStackDepth := .bounded 1, progLenMax := .bounded 1 } [0x5D#8] (.buffer [1#8])) := by decide
theorem witness_EveryReachedStateMeetsTheInvariant :
    load? .reference [0x5B#8] (.buffer []) = some (start [0x5B#8]) ∧
      ∃ t, Reaches (start [0x5B#8]) t ∧ t.ls = [0] := ⟨by decide, _, .tail .refl rfl, rfl⟩
theorem witness_ProgramCounterFitsItsWidth :
    BuildParams.pcBits { loopStackDepth := .unbounded, progLenMax := .bounded 8 } = some 4 ∧
    BuildParams.pcBits { loopStackDepth := .unbounded, progLenMax := .bounded 7 } = some 3 ∧ 8 < 2 ^ 4 ∧
    (startRun { loopStackDepth := .unbounded, progLenMax := .bounded 8 } [] (.buffer [])).Inv :=
  ⟨by decide, by decide, by decide, ⟨by decide, by decide, by decide, ⟨rfl, rfl⟩, by decide, by decide⟩⟩
theorem witness_ResetAfterAnyRunGivesTheSameStart :
    ∃ t, Reaches (start [0x5D#8]) t ∧ t.status = .faulted := ⟨_, .tail .refl rfl, rfl⟩
/-- Both sides of a finite limit, and a build without one. -/
theorem witness_HostRefusesOnlyTooLongPrograms :
    BuildParams.progLenMax { loopStackDepth := .unbounded, progLenMax := .bounded 1 } = .bounded 1 ∧
    1 < [0x2B#8, 0x2B#8].length ∧ [0x2B#8].length ≤ 1 ∧ BuildParams.reference.progLenMax = .unbounded ∧
      load? { loopStackDepth := .unbounded, progLenMax := .bounded 1 } [0x2B#8, 0x2B#8] (.buffer []) = none := by decide
/-- One state of each status that meets the invariant. -/
theorem witness_ResultIsReadOnlyAtTheEnd :
    (start []).Inv ∧ ({ start [] with status := .halted } : State).Inv ∧
    ({ start [0x5D#8] with status := .faulted, faultKind := .malformedProgram, faultPc := 0 } : State).Inv :=
  ⟨⟨by decide, by decide, by decide, ⟨rfl, rfl⟩, by decide, by decide⟩,
   ⟨by decide, by decide, by decide, ⟨rfl, rfl, rfl⟩, by decide, by decide⟩,
   ⟨by decide, by decide, by decide, ⟨rfl, rfl, rfl⟩, by decide, by decide⟩⟩
theorem witness_SuccessIsExactlyAHalt :
    ({ start [] with status := .halted } : State).Inv ∧ ({ start [] with status := .halted } : State).succeeded = true :=
  ⟨witness_ResultIsReadOnlyAtTheEnd.2.1, by decide⟩

end Sys2Proof.Tests
end

section
/-! The scope of the machine (00_scope.md R5, 92_eei_decisions.md D5): what a capacity holds, the width PC_BITS that
`PROG_LEN_MAX` fixes, and which programs the host loads. -/
namespace Sys2Proof

/-! ### Capacities -/

@[simp] theorem Capacity.holds_unbounded (k : Nat) : Capacity.unbounded.holds k = true := rfl

@[simp] theorem Capacity.holds_bounded {n k : Nat} : (Capacity.bounded n).holds k = true ↔ k ≤ n :=
  decide_eq_true_iff

/-! ### PC_BITS -/

/-- Only a finite `PROG_LEN_MAX` gives the Program Counter a width. -/
theorem BuildParams.exists_bounded_of_pcBits {b : BuildParams} {w : Nat} (h : b.pcBits = some w) :
    ∃ n, b.progLenMax = .bounded n := by
  unfold BuildParams.pcBits at h
  split at h
  case h_1 => cases h
  case h_2 n hn => exact ⟨n, hn⟩

/-- What the formula of `pcBits` means: the widths that hold `PROG_LEN_MAX` are exactly those from PC_BITS on. -/
theorem BuildParams.pcBits_le_iff {b : BuildParams} {n w v : Nat} (hn : b.progLenMax = .bounded n)
    (hw : b.pcBits = some w) : w ≤ v ↔ n < 2 ^ v := by
  have hw : (if n = 0 then 0 else n.log2 + 1) = w := by simpa [BuildParams.pcBits, hn] using hw
  subst hw
  split
  case isTrue hzero => simp [hzero]
  case isFalse hpos => exact Nat.succ_le_iff.trans (Nat.log2_lt hpos)

theorem BuildParams.progLenMax_lt_two_pow_pcBits {b : BuildParams} {n w : Nat} (hn : b.progLenMax = .bounded n)
    (hw : b.pcBits = some w) : n < 2 ^ w :=
  (pcBits_le_iff hn hw).mp le_rfl

end Sys2Proof

namespace Sys2Proof.Machine

/-! ### The position registers under the invariant -/

/-- FAULT_PC is 0 until a fault is recorded, and then it is `pc`. -/
theorem State.StatusInv.faultPc_le_pc {s : State} (h : s.StatusInv) : s.faultPc ≤ s.pc := by
  unfold State.StatusInv at h
  split at h
  case h_1 =>
    obtain ⟨-, hzero⟩ := h
    omega
  case h_2 =>
    obtain ⟨-, hzero, -⟩ := h
    omega
  case h_3 =>
    obtain ⟨hpc, -⟩ := h
    exact hpc.le

theorem State.Inv.pc_le_of_bounded {s : State} {n : Nat} (h : s.Inv) (hn : s.build.progLenMax = .bounded n) :
    s.pc ≤ n := by
  have hfits : s.progLen ≤ n := by simpa [hn] using h.progFits
  exact h.pcLe.trans hfits

theorem State.Inv.pc_lt_two_pow_pcBits {s : State} {w : Nat} (h : s.Inv) (hw : s.build.pcBits = some w) :
    s.pc < 2 ^ w := by
  obtain ⟨n, hn⟩ := BuildParams.exists_bounded_of_pcBits hw
  exact (h.pc_le_of_bounded hn).trans_lt (BuildParams.progLenMax_lt_two_pow_pcBits hn hw)

/-- Settles O48: PC_BITS is least by `pcBits_le_iff`; `pc` is at most the program's length, which fits the build, and
FAULT_PC is at most `pc`. -/
theorem programCounterFitsItsWidth : Obligations.ProgramCounterFitsItsWidth := by
  refine ⟨fun b n w hn hw => ⟨?_, fun v hv => ?_⟩, fun s w hinv hw => ?_⟩
  · exact BuildParams.progLenMax_lt_two_pow_pcBits hn hw
  · exact (BuildParams.pcBits_le_iff hn hw).mpr hv
  · have hpc : s.pc < 2 ^ w := hinv.pc_lt_two_pow_pcBits hw
    exact ⟨hpc, hinv.status.faultPc_le_pc.trans_lt hpc⟩

/-! ### Load -/

theorem load?_of_holds {b : BuildParams} {prog : List Byte} (src : InputSource)
    (h : b.progLenMax.holds prog.length = true) : load? b prog src = some (startRun b prog src) :=
  if_pos h

theorem load?_of_not_holds {b : BuildParams} {prog : List Byte} (src : InputSource)
    (h : ¬ b.progLenMax.holds prog.length = true) : load? b prog src = none :=
  if_neg h

/-- Settles O51: load asks only whether `PROG_LEN_MAX` holds the program's length. -/
theorem hostRefusesOnlyTooLongPrograms : Obligations.HostRefusesOnlyTooLongPrograms := by
  refine ⟨fun b prog src n hn => ⟨fun hlong => ?_, fun hfits => ?_⟩, fun b prog src hunbounded => ?_⟩
  · exact load?_of_not_holds src (by simpa [hn] using hlong)
  · exact load?_of_holds src (by simpa [hn] using hfits)
  · exact load?_of_holds src (by simp [hunbounded])

end Sys2Proof.Machine
end

section
/-! What an instruction can do, as a relation between the state before and the state after, with one constructor for
each way an instruction can end (40_step_cycle.md R68). It is `exec` by `exec_eq_next_iff`; a claim about every
instruction is then a case split over these ends. -/
namespace Sys2Proof.Machine

/-! ### The decoder at the codes that the control of a run turns on -/

theorem encode_decode (c : Byte) : encode (decode c) = c := by
  unfold decode
  split_ifs with h₁ h₂ h₃ h₄ h₅ h₆ h₇ h₈
  case neg => rfl
  all_goals
    subst c
    rfl

theorem decode_eq_input_iff {c : Byte} : decode c = .input ↔ c = 0x2C#8 := by
  refine ⟨fun h => ?_, fun h => h ▸ rfl⟩
  rw [← encode_decode c, h, encode]

theorem decode_eq_openLoop_iff {c : Byte} : decode c = .openLoop ↔ c = 0x5B#8 := by
  refine ⟨fun h => ?_, fun h => h ▸ rfl⟩
  rw [← encode_decode c, h, encode]

theorem decode_eq_closeLoop_iff {c : Byte} : decode c = .closeLoop ↔ c = 0x5D#8 := by
  refine ⟨fun h => ?_, fun h => h ▸ rfl⟩
  rw [← encode_decode c, h, encode]

/-! ### The ends of an instruction -/

/-- `Effect s i t`: instruction `i`, run in `s`, ends in `t`. -/
inductive Effect (s : State) : Instr → State → Prop where
  | inc : Effect s .inc (s.setCell (aluInc s.cell)).advance
  | dec : Effect s .dec (s.setCell (aluDec s.cell)).advance
  | right : Effect s .right (s.setDp (pointerRight s.dp)).advance
  | left : Effect s .left (s.setDp (pointerLeft s.dp)).advance
  | output : Effect s .output (s.outPush s.cell).advance
  | inputByte {b : Byte} (answer : s.input.pull.1 = .byte b) :
      Effect s .input ((s.consume b s.input.pull.2).setCell b).advance
  | inputStall (answer : s.input.pull.1 = .notReady) : Effect s .input (s.setInput s.input.pull.2)
  | inputEnd (answer : s.input.pull.1 = .exhausted) : Effect s .input (s.raise .inputExhausted)
  | openFull (full : s.build.loopStackDepth = .bounded s.ls.length) :
      Effect s .openLoop (s.raise .nestingLimitExceeded)
  | openPush (room : s.build.loopStackDepth ≠ .bounded s.ls.length) :
      Effect s .openLoop (s.setLs (LoopStack.push s.ls s.pc)).advance
  | closeEmpty (empty : s.ls = []) : Effect s .closeLoop (s.raise .malformedProgram)
  | closePop {l : LoopStack} {q : Nat} (stack : s.ls = l ++ [q]) (zero : s.cell = 0#8) :
      Effect s .closeLoop (s.setLs l).advance
  | closeBack {l : LoopStack} {q : Nat} (stack : s.ls = l ++ [q]) (nonzero : s.cell ≠ 0#8) :
      Effect s .closeLoop (s.jump (q + 1))
  | nop (c : Byte) : Effect s (.nop c) s.advance

/-- Every instruction ends, in every state, in one of the ways of `Effect`. -/
theorem exists_exec_effect (i : Instr) (s : State) : ∃ t, exec i s = .next t ∧ Effect s i t := by
  cases i with
  | inc => exact ⟨_, exec_inc s, .inc⟩
  | dec => exact ⟨_, exec_dec s, .dec⟩
  | right => exact ⟨_, exec_right s, .right⟩
  | left => exact ⟨_, exec_left s, .left⟩
  | output => exact ⟨_, exec_output s, .output⟩
  | input =>
    rcases exec_input_cases s with ⟨b, src, hp, he⟩ | ⟨src, hp, he⟩ | ⟨src, hp, he⟩
    · obtain ⟨hanswer, rfl⟩ := Prod.ext_iff.mp hp
      exact ⟨_, he, .inputByte hanswer⟩
    · obtain ⟨hanswer, rfl⟩ := Prod.ext_iff.mp hp
      exact ⟨_, he, .inputStall hanswer⟩
    · exact ⟨_, he, .inputEnd (Prod.ext_iff.mp hp).1⟩
  | openLoop =>
    rcases exec_open_cases s with ⟨hfull, he⟩ | ⟨hroom, he⟩
    · exact ⟨_, he, .openFull hfull⟩
    · exact ⟨_, he, .openPush hroom⟩
  | closeLoop =>
    rcases exec_close_cases s with ⟨hempty, he⟩ | ⟨l, q, hl, hz, he⟩ | ⟨l, q, hl, hnz, he⟩
    · exact ⟨_, he, .closeEmpty hempty⟩
    · exact ⟨_, he, .closePop hl hz⟩
    · exact ⟨_, he, .closeBack hl hnz⟩
  | nop c => exact ⟨_, exec_nop c s, .nop c⟩

/-- An instruction has one end: the conditions of the constructors exclude one another. -/
theorem Effect.unique {s t u : State} {i : Instr} (ht : Effect s i t) (hu : Effect s i u) : t = u := by
  cases ht with
  | inputByte answer | inputStall answer | inputEnd answer => cases hu <;> simp_all
  | openFull full =>
    cases hu with
    | openFull => rfl
    | openPush room => exact absurd full room
  | openPush room =>
    cases hu with
    | openFull full => exact absurd full room
    | openPush => rfl
  | closeEmpty empty => cases hu <;> simp_all
  | closePop stack zero | closeBack stack nonzero => cases hu <;> simp_all
  | _ =>
    cases hu
    rfl

theorem exec_eq_next_iff {i : Instr} {s t : State} : exec i s = .next t ↔ Effect s i t := by
  obtain ⟨u, hexec, heffect⟩ := exists_exec_effect i s
  constructor
  · intro h
    obtain rfl : u = t := Host.Outcome.next.inj (hexec.symm.trans h)
    exact heffect
  · intro h
    rw [hexec, heffect.unique h]

/-! ### The step -/

theorem step_of_fetch_none {s : State} (hrun : s.status = .running) (hf : s.fetch = none) :
    step s = .next s.halt := by
  simp [step, hrun, hf]

/-- Everything a step does: the halt transition at the end of the stream, or the effect of the decoded instruction. -/
theorem step_eq_next_iff {s t : State} :
    step s = .next t ↔ s.status = .running ∧
      ((s.fetch = none ∧ t = s.halt) ∨ ∃ c, s.fetch = some c ∧ Effect s (decode c) t) := by
  simp only [← exec_eq_next_iff]
  refine ⟨step_cases, ?_⟩
  rintro ⟨hrun, ⟨hf, rfl⟩ | ⟨c, hf, hexec⟩⟩
  · exact step_of_fetch_none hrun hf
  · rwa [step_running hrun hf]

end Sys2Proof.Machine
end

section
/-! Which part of the state an instruction writes (10_state.md R10). -/
namespace Sys2Proof.Machine
variable {s t : State} {i : Instr}

theorem Effect.prog_eq (h : Effect s i t) : t.prog = s.prog := by cases h <;> rfl

theorem Effect.build_eq (h : Effect s i t) : t.build = s.build := by cases h <;> rfl

theorem Effect.writes_tape (h : Effect s i t) : t.tape ≠ s.tape → i = .inc ∨ i = .dec ∨ i = .input := by
  cases h <;> simp

theorem Effect.writes_dp (h : Effect s i t) : t.dp ≠ s.dp → i = .right ∨ i = .left := by
  cases h <;> simp

theorem Effect.writes_ls (h : Effect s i t) : t.ls ≠ s.ls → i = .openLoop ∨ i = .closeLoop := by
  cases h <;> simp

theorem Effect.writes_output (h : Effect s i t) : t.output ≠ s.output → i = .output := by
  cases h <;> simp

theorem Effect.writes_input (h : Effect s i t) : t.input ≠ s.input ∨ t.pulled ≠ s.pulled → i = .input := by
  cases h <;> simp

theorem Effect.writes_statusRegisters (h : Effect s i t) :
    t.status ≠ s.status ∨ t.faultKind ≠ s.faultKind ∨ t.faultPc ≠ s.faultPc →
      i = .input ∨ i = .openLoop ∨ i = .closeLoop := by
  cases h <;> simp

/-- Settles O40, part by part. -/
theorem eachPartIsWrittenOnlyByItsInstructions : Obligations.EachPartIsWrittenOnlyByItsInstructions := by
  intro i s t hexec
  have h : Effect s i t := exec_eq_next_iff.mp hexec
  exact ⟨h.writes_tape, h.writes_dp, h.writes_ls, h.writes_output, h.writes_input, h.writes_statusRegisters,
    h.prog_eq, h.build_eq⟩

/-- The one write to the tape an instruction can make is to the current cell (20_memory.md R33). -/
theorem Effect.tape_cases (h : Effect s i t) : t.tape = s.tape ∨ ∃ v, t.tape = Memory.write s.tape s.dp.val v := by
  cases h with
  | inc => exact .inr ⟨aluInc s.cell, rfl⟩
  | dec => exact .inr ⟨aluDec s.cell, rfl⟩
  | @inputByte b => exact .inr ⟨b, rfl⟩
  | _ => exact .inl rfl

theorem step_tape_cases (h : step s = .next t) : t.tape = s.tape ∨ ∃ v, t.tape = Memory.write s.tape s.dp.val v := by
  obtain ⟨-, ⟨-, rfl⟩ | ⟨c, -, heffect⟩⟩ := step_eq_next_iff.mp h
  · exact .inl rfl
  · exact heffect.tape_cases

theorem step_prog_eq (h : step s = .next t) : t.prog = s.prog := by
  obtain ⟨-, ⟨-, rfl⟩ | ⟨c, -, heffect⟩⟩ := step_eq_next_iff.mp h
  · rfl
  · exact heffect.prog_eq

theorem step_build_eq (h : step s = .next t) : t.build = s.build := by
  obtain ⟨-, ⟨-, rfl⟩ | ⟨c, -, heffect⟩⟩ := step_eq_next_iff.mp h
  · rfl
  · exact heffect.build_eq

/-- Settles O41: a write leaves every other address as it was. -/
theorem onlyTheCurrentCellIsWritten : Obligations.OnlyTheCurrentCellIsWritten := by
  intro s t a hstep ha
  rcases step_tape_cases hstep with htape | ⟨v, htape⟩
  · rw [htape]
  · rw [htape, Memory.read_write, if_neg ha.symm]

/-- Settles O44: a write keeps the canonical form, and `dp` is below 30000. -/
theorem stepKeepsTheTapeCanonical : Obligations.StepKeepsTheTapeCanonical := by
  intro s t hwf hstep
  rcases step_tape_cases hstep with htape | ⟨v, htape⟩
  · rwa [htape]
  · rw [htape]
    exact Memory.write_wf hwf s.dp.isLt v

end Sys2Proof.Machine
end

section
/-! Two runs: what a step does not look at (10_state.md R23, R24; 20_memory.md R33). In each proof the second state is the
first with one part replaced, and every end of an instruction is matched with the same end. -/
namespace Sys2Proof.Machine
variable {s t : State} {i : Instr}

/-! ### The output -/

/-- What an instruction appends to the output (20_memory.md R37). -/
def appendedOutput (i : Instr) (s : State) : List Byte := if i = .output then [s.cell] else []

theorem Effect.output_eq (h : Effect s i t) : t.output = s.output ++ appendedOutput i s := by
  cases h <;> simp [appendedOutput]

theorem Effect.with_output (h : Effect s i t) (o : List Byte) :
    Effect { s with output := o } i { t with output := o ++ appendedOutput i s } := by
  by_cases hi : i = .output
  case pos =>
    subst hi
    cases h
    exact .output
  case neg =>
    rw [appendedOutput, if_neg hi, List.append_nil]
    cases h with
    | output => exact absurd rfl hi
    | _ => constructor <;> assumption

/-- Settles O25. -/
theorem outputIsNeverReadBack : Obligations.OutputIsNeverReadBack := by
  intro s t hstep
  obtain ⟨hrun, ⟨hf, rfl⟩ | ⟨c, hf, heffect⟩⟩ := step_eq_next_iff.mp hstep
  · refine ⟨[], (List.append_nil _).symm, fun o => ?_⟩
    rw [List.append_nil]
    exact step_of_fetch_none hrun hf
  · exact ⟨appendedOutput (decode c) s, heffect.output_eq, fun o =>
      step_eq_next_iff.mpr ⟨hrun, .inr ⟨c, hf, heffect.with_output o⟩⟩⟩

/-! ### The input -/

theorem Effect.with_input (h : Effect s i t) {src : InputSource} (hanswer : src.pull.1 = s.input.pull.1) :
    ∃ src', Effect { s with input := src } i { t with input := src' } := by
  cases h with
  | inputByte answer => exact ⟨src.pull.2, .inputByte (hanswer.trans answer)⟩
  | inputStall answer => exact ⟨src.pull.2, .inputStall (hanswer.trans answer)⟩
  | inputEnd answer => exact ⟨src, .inputEnd (hanswer.trans answer)⟩
  | _ =>
    refine ⟨src, ?_⟩
    constructor <;> assumption

/-- Settles O26. -/
theorem inputIsNeverReadAhead : Obligations.InputIsNeverReadAhead := by
  intro s t src hstep hanswer
  obtain ⟨hrun, ⟨hf, rfl⟩ | ⟨c, hf, heffect⟩⟩ := step_eq_next_iff.mp hstep
  · exact ⟨src, step_of_fetch_none hrun hf⟩
  · obtain ⟨src', heffect'⟩ := heffect.with_input hanswer
    exact ⟨src', step_eq_next_iff.mpr ⟨hrun, .inr ⟨c, hf, heffect'⟩⟩⟩

/-! ### The tape away from the current cell -/

theorem Effect.with_tape (h : Effect s i t) {m : Memory} (hcell : Memory.read m s.dp.val = s.cell) :
    ∃ m', Effect { s with tape := m } i { t with tape := m' } ∧
      Memory.read m' s.dp.val = Memory.read t.tape s.dp.val := by
  have hcell' : ({ s with tape := m } : State).cell = s.cell := hcell
  cases h with
  | inc => exact ⟨Memory.write m s.dp.val (aluInc s.cell), hcell' ▸ .inc, by simp⟩
  | dec => exact ⟨Memory.write m s.dp.val (aluDec s.cell), hcell' ▸ .dec, by simp⟩
  | output => exact ⟨m, hcell' ▸ .output, hcell⟩
  | @inputByte b answer => exact ⟨Memory.write m s.dp.val b, .inputByte answer, by simp⟩
  | closePop stack zero => exact ⟨m, .closePop stack (hcell'.trans zero), hcell⟩
  | closeBack stack nonzero => exact ⟨m, .closeBack stack (hcell'.trans_ne nonzero), hcell⟩
  | _ =>
    refine ⟨m, ?_, hcell⟩
    constructor <;> assumption

/-- Settles O42. -/
theorem onlyTheCurrentCellIsRead : Obligations.OnlyTheCurrentCellIsRead := by
  intro s t m hstep hcell
  obtain ⟨hrun, ⟨hf, rfl⟩ | ⟨c, hf, heffect⟩⟩ := step_eq_next_iff.mp hstep
  · exact ⟨m, step_of_fetch_none hrun hf, hcell⟩
  · obtain ⟨m', heffect', hcell'⟩ := heffect.with_tape hcell
    exact ⟨m', step_eq_next_iff.mpr ⟨hrun, .inr ⟨c, hf, heffect'⟩⟩, hcell'⟩

end Sys2Proof.Machine
end

section
/-! Bracket matching: how `unmatchedOpens` grows by one character, which `[` its entries are, and how long an entry stays
(10_state.md R27). -/
namespace Sys2Proof.Machine
variable {prog : List Byte} {n : Nat}

/-! ### One character -/

@[simp] theorem unmatchedOpens_zero : unmatchedOpens prog 0 = [] := rfl

theorem unmatchedOpens_succ_open (h : prog[n]? = some 0x5B#8) :
    unmatchedOpens prog (n + 1) = unmatchedOpens prog n ++ [n] := by
  simp [unmatchedOpens, h, matchBracket]

theorem unmatchedOpens_succ_close (h : prog[n]? = some 0x5D#8) :
    unmatchedOpens prog (n + 1) = (unmatchedOpens prog n).dropLast := by
  simp [unmatchedOpens, h, matchBracket]

theorem unmatchedOpens_succ_other (hopen : prog[n]? ≠ some 0x5B#8) (hclose : prog[n]? ≠ some 0x5D#8) :
    unmatchedOpens prog (n + 1) = unmatchedOpens prog n := by
  rw [unmatchedOpens]
  split
  case h_1 => rfl
  case h_2 c hc =>
    have hopen' : c ≠ 0x5B#8 := by simpa [hc] using hopen
    have hclose' : c ≠ 0x5D#8 := by simpa [hc] using hclose
    simp [matchBracket, hopen', hclose']

/-- The three ways the open brackets change at the character at `n`. -/
theorem unmatchedOpens_succ_cases (prog : List Byte) (n : Nat) :
    (prog[n]? = some 0x5B#8 ∧ unmatchedOpens prog (n + 1) = unmatchedOpens prog n ++ [n]) ∨
    (prog[n]? = some 0x5D#8 ∧ unmatchedOpens prog (n + 1) = (unmatchedOpens prog n).dropLast) ∨
    (prog[n]? ≠ some 0x5B#8 ∧ prog[n]? ≠ some 0x5D#8 ∧ unmatchedOpens prog (n + 1) = unmatchedOpens prog n) := by
  by_cases hopen : prog[n]? = some 0x5B#8
  · exact .inl ⟨hopen, unmatchedOpens_succ_open hopen⟩
  · by_cases hclose : prog[n]? = some 0x5D#8
    · exact .inr (.inl ⟨hclose, unmatchedOpens_succ_close hclose⟩)
    · exact .inr (.inr ⟨hopen, hclose, unmatchedOpens_succ_other hopen hclose⟩)

/-! ### An entry and the entries below it

`l ++ [q] <+: unmatchedOpens prog n` says that `q` is open before `n`, with exactly the brackets `l` below it. -/

/-- An entry of the next stack is an entry of this one, or the `[` just read. -/
theorem unmatchedOpens_entry_pred {l : LoopStack} {q : Nat} (h : l ++ [q] <+: unmatchedOpens prog (n + 1)) :
    (q = n ∧ prog[n]? = some 0x5B#8 ∧ unmatchedOpens prog n = l) ∨ l ++ [q] <+: unmatchedOpens prog n := by
  rcases unmatchedOpens_succ_cases prog n with ⟨hopen, heq⟩ | ⟨-, heq⟩ | ⟨-, -, heq⟩
  · rw [heq, List.prefix_concat_iff] at h
    rcases h with h | h
    · obtain ⟨hl, hq⟩ := List.append_inj' h rfl
      exact .inl ⟨List.singleton_injective hq, hopen, hl.symm⟩
    · exact .inr h
  · exact .inr ((heq ▸ h).trans (List.dropLast_prefix _))
  · exact .inr (heq ▸ h)

/-- An entry is the position of an earlier `[`, and the entries below it are the brackets that were open there. -/
theorem unmatchedOpens_entry {l : LoopStack} {q : Nat} (h : l ++ [q] <+: unmatchedOpens prog n) :
    q < n ∧ prog[q]? = some 0x5B#8 ∧ unmatchedOpens prog q = l := by
  induction n with
  | zero => simp at h
  | succ n ih =>
    rcases unmatchedOpens_entry_pred h with ⟨rfl, hopen, hl⟩ | h
    · exact ⟨Nat.lt_succ_self q, hopen, hl⟩
    · obtain ⟨hlt, hopen, hl⟩ := ih h
      exact ⟨Nat.lt_succ_of_lt hlt, hopen, hl⟩

/-- An entry has been open, with the same entries below it, since it was read. -/
theorem unmatchedOpens_entry_since {l : LoopStack} {q m : Nat} (h : l ++ [q] <+: unmatchedOpens prog n)
    (hqm : q < m) (hmn : m ≤ n) : l ++ [q] <+: unmatchedOpens prog m := by
  induction hmn using Nat.decreasingInduction with
  | self => exact h
  | of_succ m hmn ih =>
    rcases unmatchedOpens_entry_pred (ih (Nat.lt_succ_of_lt hqm)) with ⟨rfl, -, -⟩ | hm
    · exact absurd hqm (Nat.lt_irrefl q)
    · exact hm

/-- A loop-back restores the stack: just after an entry's `[`, the stack is that entry on the ones below it. -/
theorem unmatchedOpens_after_entry {l : LoopStack} {q : Nat} (h : l ++ [q] <+: unmatchedOpens prog n) :
    unmatchedOpens prog (q + 1) = l ++ [q] := by
  obtain ⟨-, hopen, hl⟩ := unmatchedOpens_entry h
  rw [unmatchedOpens_succ_open hopen, hl]

theorem mem_unmatchedOpens_iff {q : Nat} :
    q ∈ unmatchedOpens prog n ↔ unmatchedOpens prog q ++ [q] <+: unmatchedOpens prog n := by
  constructor
  · intro hq
    obtain ⟨l, r, hsplit⟩ := List.append_of_mem hq
    have h : l ++ [q] <+: unmatchedOpens prog n := ⟨r, by simp [hsplit]⟩
    obtain ⟨-, -, hl⟩ := unmatchedOpens_entry h
    exact hl ▸ h
  · intro h
    exact h.subset (by simp)

theorem lt_of_mem_unmatchedOpens {q : Nat} (h : q ∈ unmatchedOpens prog n) : q < n := by
  obtain ⟨hlt, -, -⟩ := unmatchedOpens_entry (mem_unmatchedOpens_iff.mp h)
  exact hlt

theorem open_of_mem_unmatchedOpens {q : Nat} (h : q ∈ unmatchedOpens prog n) : prog[q]? = some 0x5B#8 := by
  obtain ⟨-, hopen, -⟩ := unmatchedOpens_entry (mem_unmatchedOpens_iff.mp h)
  exact hopen

theorem unmatchedOpens_pairwise (prog : List Byte) (n : Nat) : (unmatchedOpens prog n).Pairwise (· < ·) := by
  induction n with
  | zero => exact List.Pairwise.nil
  | succ n ih =>
    rcases unmatchedOpens_succ_cases prog n with ⟨-, heq⟩ | ⟨-, heq⟩ | ⟨-, -, heq⟩
    · rw [heq, List.pairwise_append]
      exact ⟨ih, List.pairwise_singleton _ n, by simpa using fun q => lt_of_mem_unmatchedOpens⟩
    · rw [heq]
      exact ih.sublist (List.dropLast_sublist _)
    · rwa [heq]

end Sys2Proof.Machine
end

section
/-! The invariant of the machine (10_state.md R12 to R27): what makes it up again after each of the named updates, and that
every step keeps it. -/
namespace Sys2Proof

/-! ### What a capacity holds -/

theorem Capacity.holds_of_le {c : Capacity} {j k : Nat} (h : c.holds k = true) (hjk : j ≤ k) : c.holds j = true := by
  cases c with
  | unbounded => rfl
  | bounded n => exact Capacity.holds_bounded.mpr (hjk.trans (Capacity.holds_bounded.mp h))

theorem Capacity.holds_zero (c : Capacity) : c.holds 0 = true := by
  cases c with
  | unbounded => rfl
  | bounded n => exact Capacity.holds_bounded.mpr n.zero_le

/-- What is not full holds one more. -/
theorem Capacity.holds_succ {c : Capacity} {k : Nat} (h : c.holds k = true) (hroom : c ≠ .bounded k) :
    c.holds (k + 1) = true := by
  cases c with
  | unbounded => rfl
  | bounded n =>
    have hne : n ≠ k := fun hn => hroom (congrArg _ hn)
    have hle : k ≤ n := Capacity.holds_bounded.mp h
    exact Capacity.holds_bounded.mpr (by omega)

end Sys2Proof

namespace Sys2Proof.Machine
variable {s t : State}

/-! ### The status registers -/

theorem State.statusInv_iff_of_running (h : s.status = .running) :
    s.StatusInv ↔ s.faultKind = .none ∧ s.faultPc = 0 := by
  simp [State.StatusInv, h]

theorem State.statusInv_iff_of_halted (h : s.status = .halted) :
    s.StatusInv ↔ s.faultKind = .none ∧ s.faultPc = 0 ∧ s.pc = s.progLen := by
  simp [State.StatusInv, h]

theorem State.statusInv_iff_of_faulted (h : s.status = .faulted) :
    s.StatusInv ↔ s.faultPc = s.pc ∧ s.FaultCause := by
  simp [State.StatusInv, h]

theorem State.FaultCause.faultKind_ne_none (h : s.FaultCause) : s.faultKind ≠ .none := by
  intro hkind
  simp [State.FaultCause, hkind] at h

/-- In a RUNNING state the status registers constrain nothing but themselves. -/
theorem State.Inv.statusInv_of_eq (h : s.Inv) (hrun : s.status = .running) (hstatus : t.status = s.status)
    (hkind : t.faultKind = s.faultKind) (hpc : t.faultPc = s.faultPc) : t.StatusInv := by
  rw [State.statusInv_iff_of_running (hstatus.trans hrun), hkind, hpc]
  exact (State.statusInv_iff_of_running hrun).mp h.status

/-! ### The updates -/

theorem State.Inv.setCell (h : s.Inv) (v : Byte) : (s.setCell v).Inv :=
  { h with tapeWf := State.setCell_tape_wf h.tapeWf v }

theorem State.Inv.setDp (h : s.Inv) (d : DataPointer) : (s.setDp d).Inv := { h with }

theorem State.Inv.outPush (h : s.Inv) (v : Byte) : (s.outPush v).Inv := { h with }

theorem State.Inv.setInput (h : s.Inv) (hrun : s.status = .running) (src : InputSource) : (s.setInput src).Inv :=
  { h with status := h.statusInv_of_eq hrun rfl rfl rfl }

theorem State.Inv.consume (h : s.Inv) (hrun : s.status = .running) (b : Byte) (src : InputSource) :
    (s.consume b src).Inv :=
  { h with status := h.statusInv_of_eq hrun rfl rfl rfl }

/-- A move of control keeps the invariant when the stack it leaves is the one that belongs to its target. -/
theorem State.Inv.setLs_jump {l : LoopStack} {p : Nat} (h : s.Inv) (hrun : s.status = .running) (hp : p ≤ s.progLen)
    (hl : l = unmatchedOpens s.prog p) (hdepth : s.build.loopStackDepth.holds l.length = true) :
    ((s.setLs l).jump p).Inv :=
  { h with
    pcLe := hp
    loopStack := hl
    status := h.statusInv_of_eq hrun rfl rfl rfl
    depthFits := hdepth }

theorem State.Inv.halt (h : s.Inv) (hrun : s.status = .running) (hf : s.fetch = none) : s.halt.Inv := by
  obtain ⟨hkind, hpc⟩ := (State.statusInv_iff_of_running hrun).mp h.status
  have hend : s.pc = s.progLen := h.pcLe.antisymm (State.fetch_eq_none.mp hf)
  exact { h with status := ⟨hkind, hpc, hend⟩ }

theorem State.Inv.raise {k : FaultKind} (h : s.Inv) (hcause : (s.raise k).FaultCause) : (s.raise k).Inv :=
  { h with status := ⟨rfl, hcause⟩ }

/-! ### The moves of control -/

/-- Past a character that is no bracket the same brackets are open. -/
theorem State.Inv.advance {c : Byte} {i : Instr} (h : s.Inv) (hrun : s.status = .running) (hf : s.fetch = some c)
    (hi : decode c = i) (hopen : i ≠ .openLoop) (hclose : i ≠ .closeLoop) : s.advance.Inv := by
  have hls : s.ls = unmatchedOpens s.prog (s.pc + 1) := by
    rw [h.loopStack]
    refine (unmatchedOpens_succ_other (fun hc => hopen ?_) (fun hc => hclose ?_)).symm
    · exact hi.symm.trans (decode_eq_openLoop_iff.mpr (Option.some.inj (hf.symm.trans hc)))
    · exact hi.symm.trans (decode_eq_closeLoop_iff.mpr (Option.some.inj (hf.symm.trans hc)))
  exact h.setLs_jump hrun (State.fetch_lt hf) hls h.depthFits

theorem State.Inv.push (h : s.Inv) (hrun : s.status = .running) (hf : s.fetch = some 0x5B#8)
    (hroom : s.build.loopStackDepth ≠ .bounded s.ls.length) : (s.setLs (LoopStack.push s.ls s.pc)).advance.Inv := by
  have hls : LoopStack.push s.ls s.pc = unmatchedOpens s.prog (s.pc + 1) := by
    rw [unmatchedOpens_succ_open hf, h.loopStack, LoopStack.push]
  refine h.setLs_jump hrun (State.fetch_lt hf) hls ?_
  rw [LoopStack.push, List.length_append]
  exact Capacity.holds_succ h.depthFits hroom

theorem State.Inv.pop {l : LoopStack} {q : Nat} (h : s.Inv) (hrun : s.status = .running)
    (hf : s.fetch = some 0x5D#8) (hstack : s.ls = l ++ [q]) : (s.setLs l).advance.Inv := by
  have hls : l = unmatchedOpens s.prog (s.pc + 1) := by
    rw [unmatchedOpens_succ_close hf, ← h.loopStack, hstack, List.dropLast_concat]
  exact h.setLs_jump hrun (State.fetch_lt hf) hls (Capacity.holds_of_le h.depthFits (by simp [hstack]))

/-- Every entry of the Loop Stack, the top one too, is an entry of `unmatchedOpens`. -/
theorem State.Inv.top_entry {l : LoopStack} {q : Nat} (h : s.Inv) (hstack : s.ls = l ++ [q]) :
    l ++ [q] <+: unmatchedOpens s.prog s.pc := by
  rw [← hstack, h.loopStack]

theorem State.Inv.top_lt {l : LoopStack} {q : Nat} (h : s.Inv) (hstack : s.ls = l ++ [q]) : q < s.pc :=
  (unmatchedOpens_entry (h.top_entry hstack)).1

theorem State.Inv.loopBack {l : LoopStack} {q : Nat} (h : s.Inv) (hrun : s.status = .running)
    (hstack : s.ls = l ++ [q]) : (s.jump (q + 1)).Inv := by
  have hp : q + 1 ≤ s.progLen := Nat.le_trans (h.top_lt hstack) h.pcLe
  have hls : s.ls = unmatchedOpens s.prog (q + 1) := by
    rw [unmatchedOpens_after_entry (h.top_entry hstack), hstack]
  exact h.setLs_jump hrun hp hls h.depthFits

/-! ### The step -/

theorem Effect.inv {c : Byte} {i : Instr} (heffect : Effect s i t) (h : s.Inv) (hrun : s.status = .running)
    (hf : s.fetch = some c) (hi : decode c = i) : t.Inv := by
  cases heffect with
  | inc => exact (h.setCell _).advance hrun hf hi nofun nofun
  | dec => exact (h.setCell _).advance hrun hf hi nofun nofun
  | right => exact (h.setDp _).advance hrun hf hi nofun nofun
  | left => exact (h.setDp _).advance hrun hf hi nofun nofun
  | output => exact (h.outPush _).advance hrun hf hi nofun nofun
  | inputByte => exact ((h.consume hrun _ _).setCell _).advance hrun hf hi nofun nofun
  | inputStall => exact h.setInput hrun _
  | inputEnd answer => exact h.raise ⟨decode_eq_input_iff.mp hi ▸ hf, answer⟩
  | openFull full => exact h.raise ⟨decode_eq_openLoop_iff.mp hi ▸ hf, full⟩
  | openPush room => exact h.push hrun (decode_eq_openLoop_iff.mp hi ▸ hf) room
  | closeEmpty empty => exact h.raise ⟨decode_eq_closeLoop_iff.mp hi ▸ hf, empty⟩
  | closePop stack => exact h.pop hrun (decode_eq_closeLoop_iff.mp hi ▸ hf) stack
  | closeBack stack => exact h.loopBack hrun stack
  | nop => exact h.advance hrun hf hi nofun nofun

/-- Settles O45: the halt transition and every end of an instruction keep the invariant. -/
theorem stepKeepsTheInvariant : Obligations.StepKeepsTheInvariant := by
  intro s t h hstep
  obtain ⟨hrun, ⟨hf, rfl⟩ | ⟨c, hf, heffect⟩⟩ := step_eq_next_iff.mp hstep
  · exact h.halt hrun hf
  · exact heffect.inv h hrun hf rfl

end Sys2Proof.Machine
end

section
/-! What the Loop Stack holds (10_state.md R16, R27): its content by counting brackets, its depth by counting pushes and
pops, and where a loop-back goes (44_loop_control.md R96). -/
namespace Sys2Proof.Machine

/-! ### Counting brackets -/

/-- The number of characters `c` at the positions from `q` on and before `n`. -/
def charCount (prog : List Byte) (c : Byte) (q n : Nat) : Nat := ((prog.take n).drop q).count c

section
variable {prog : List Byte} {q n : Nat}

theorem charCount_self (c : Byte) : charCount prog c q q = 0 := by
  simp [charCount]

theorem charCount_succ (c : Byte) (h : q ≤ n) :
    charCount prog c q (n + 1) = charCount prog c q n + if prog[n]? = some c then 1 else 0 := by
  unfold charCount
  rw [List.take_add_one]
  cases hn : prog[n]? with
  | none => simp
  | some d =>
    have hlen : n < prog.length := (List.getElem?_eq_some_iff.mp hn).1
    rw [List.drop_append_of_le_length (by simp; omega), List.count_append]
    simp [List.count_singleton]

theorem charCount_le_count (c : Byte) : charCount prog c q n ≤ prog.count c :=
  (((prog.take n).drop_sublist q).trans (prog.take_sublist n)).count_le c

theorem length_unmatchedOpens_le (prog : List Byte) (n : Nat) :
    (unmatchedOpens prog n).length ≤ charCount prog 0x5B#8 0 n := by
  induction n with
  | zero => simp
  | succ n ih =>
    rw [charCount_succ _ n.zero_le]
    rcases unmatchedOpens_succ_cases prog n with ⟨hopen, heq⟩ | ⟨-, heq⟩ | ⟨-, -, heq⟩
    · simp [heq, hopen, ih]
    · rw [heq, List.length_dropLast]
      omega
    · rw [heq]
      omega

/-- While the `[` at `q` is open, the stack has grown by the `[` and shrunk by the `]` since `q`. -/
theorem length_unmatchedOpens_of_mem (h : q ∈ unmatchedOpens prog n) :
    (unmatchedOpens prog n).length + charCount prog 0x5D#8 q n =
      (unmatchedOpens prog q).length + charCount prog 0x5B#8 q n := by
  have hentry := mem_unmatchedOpens_iff.mp h
  have hqn : q + 1 ≤ n := lt_of_mem_unmatchedOpens h
  have hopen : prog[q]? = some 0x5B#8 := open_of_mem_unmatchedOpens h
  clear h
  induction n, hqn using Nat.le_induction with
  | base => simp [charCount_succ, charCount_self, unmatchedOpens_succ_open hopen, hopen]
  | succ n hqn ih =>
    have hn := unmatchedOpens_entry_since hentry hqn n.le_succ
    have hpos : 0 < (unmatchedOpens prog n).length := by
      have := hn.length_le
      simp at this
      omega
    have ih := ih hn
    rw [charCount_succ _ (by omega), charCount_succ _ (by omega)]
    rcases unmatchedOpens_succ_cases prog n with ⟨hc, heq⟩ | ⟨hc, heq⟩ | ⟨hc, hc', heq⟩
    · simp [heq, hc]
      omega
    · simp [heq, hc]
      omega
    · simpa [heq, hc, hc'] using ih

/-- A `[` that outnumbers the `]` in every stretch from it on is never closed: at each `]` there is an entry above it. -/
theorem mem_unmatchedOpens_of_charCount_lt (hqn : q < n) (hopen : prog[q]? = some 0x5B#8)
    (hcount : ∀ m, q < m → m ≤ n → charCount prog 0x5D#8 q m < charCount prog 0x5B#8 q m) :
    q ∈ unmatchedOpens prog n := by
  induction n, hqn using Nat.le_induction with
  | base => simp [unmatchedOpens_succ_open hopen]
  | succ n hqn ih =>
    have hmem : q ∈ unmatchedOpens prog n := ih fun m hm hmn => hcount m hm (hmn.trans n.le_succ)
    rcases unmatchedOpens_succ_cases prog n with ⟨-, heq⟩ | ⟨hclose, heq⟩ | ⟨-, -, heq⟩
    · exact heq ▸ List.mem_append_left _ hmem
    · have habove : (unmatchedOpens prog q).length + 1 < (unmatchedOpens prog n).length := by
        have hlength := length_unmatchedOpens_of_mem hmem
        have hlt := hcount (n + 1) (by omega) le_rfl
        simp [charCount_succ, (show q ≤ n by omega), hclose] at hlt
        omega
      rw [mem_unmatchedOpens_iff, heq, List.dropLast_eq_take, List.prefix_take_iff]
      refine ⟨mem_unmatchedOpens_iff.mp hmem, ?_⟩
      simp
      omega
    · exact heq ▸ hmem

theorem mem_unmatchedOpens_iff_charCount : q ∈ unmatchedOpens prog n ↔ q < n ∧ prog[q]? = some 0x5B#8 ∧
    ∀ m, q < m → m ≤ n → charCount prog 0x5D#8 q m < charCount prog 0x5B#8 q m := by
  constructor
  · intro h
    refine ⟨lt_of_mem_unmatchedOpens h, open_of_mem_unmatchedOpens h, fun m hqm hmn => ?_⟩
    have hentry := unmatchedOpens_entry_since (mem_unmatchedOpens_iff.mp h) hqm hmn
    have hbelow : (unmatchedOpens prog q).length < (unmatchedOpens prog m).length := by
      simpa using hentry.length_le
    have hlength := length_unmatchedOpens_of_mem (mem_unmatchedOpens_iff.mpr hentry)
    omega
  · rintro ⟨hqn, hopen, hcount⟩
    exact mem_unmatchedOpens_of_charCount_lt hqn hopen hcount

end

/-- Settles O33: the invariant says that the stack is `unmatchedOpens`, and the lemmas above say what that holds. -/
theorem loopStackIsExactlyTheUnmatchedOpens : Obligations.LoopStackIsExactlyTheUnmatchedOpens := by
  intro s h
  rw [h.loopStack]
  exact ⟨unmatchedOpens_pairwise s.prog s.pc,
    fun q hq => ⟨lt_of_mem_unmatchedOpens hq, open_of_mem_unmatchedOpens hq⟩,
    (length_unmatchedOpens_le s.prog s.pc).trans (charCount_le_count _),
    fun q => mem_unmatchedOpens_iff_charCount⟩

/-! ### The loop-back -/

/-- Settles O32. -/
theorem loopBackGoesToTheMatchingOpen : Obligations.LoopBackGoesToTheMatchingOpen := by
  intro s t l q h hrun hf hstack hnonzero hstep
  have hentry : l ++ [q] <+: unmatchedOpens s.prog s.pc := h.top_entry hstack
  obtain ⟨hlt, hopen, hbelow⟩ := unmatchedOpens_entry hentry
  have heffect : Effect s .closeLoop t := exec_eq_next_iff.mp ((step_running hrun hf).symm.trans hstep)
  obtain rfl : s.jump (q + 1) = t := (Effect.closeBack hstack hnonzero).unique heffect
  exact ⟨rfl, hlt, hopen, hbelow, fun n hqn hn => hstack ▸ unmatchedOpens_entry_since hentry hqn hn⟩

/-! ### The depth -/

section
variable {s t : State}

theorem State.pushes_eq {c : Byte} (hrun : s.status = .running) (hf : s.fetch = some c) :
    s.pushes = (decide (decode c = .openLoop) && !LoopStack.full s.ls s.build.loopStackDepth) := by
  simp [State.pushes, hrun, hf, decode_eq_openLoop_iff, Bool.beq_eq_decide_eq]

theorem State.pops_eq {c : Byte} (hrun : s.status = .running) (hf : s.fetch = some c) :
    s.pops = (decide (decode c = .closeLoop) && !s.ls.isEmpty && s.cell == 0#8) := by
  simp [State.pops, hrun, hf, decode_eq_closeLoop_iff, Bool.beq_eq_decide_eq]

theorem Effect.length_ls {c : Byte} {i : Instr} (heffect : Effect s i t) (hrun : s.status = .running)
    (hf : s.fetch = some c) (hi : decode c = i) :
    t.ls.length + s.pops.toNat = s.ls.length + s.pushes.toNat := by
  rw [State.pushes_eq hrun hf, State.pops_eq hrun hf, hi]
  cases heffect with
  | openFull full => simp [LoopStack.full_iff.mpr full]
  | openPush room => simp [mt LoopStack.full_iff.mp room, LoopStack.push]
  | closeEmpty empty => simp [empty]
  | closePop stack zero => simp [stack, zero]
  | closeBack stack nonzero => simp [nonzero]
  | _ => simp

theorem step_length_ls (hstep : step s = .next t) :
    t.ls.length + s.pops.toNat = s.ls.length + s.pushes.toNat := by
  obtain ⟨hrun, ⟨hf, rfl⟩ | ⟨c, hf, heffect⟩⟩ := step_eq_next_iff.mp hstep
  · simp [State.pushes, State.pops, hf]
  · exact heffect.length_ls hrun hf rfl

theorem countSteps_succ (p : State → Bool) (k : Nat) (hstep : step s = .next t) :
    countSteps p (k + 1) s = (p s).toNat + countSteps p k t := by
  simp [countSteps, hstep]

theorem stepN_succ_eq_some {k : Nat} (h : stepN (k + 1) s = some t) :
    ∃ u, step s = .next u ∧ stepN k u = some t := by
  rw [stepN] at h
  split at h
  case h_1 u hstep => exact ⟨u, hstep, h⟩
  all_goals cases h

end

/-- Settles O34, by induction on the number of steps. -/
theorem stackDepthCountsPushesAndPops : Obligations.StackDepthCountsPushesAndPops := by
  intro k
  induction k with
  | zero =>
    rintro s t ⟨⟩
    rfl
  | succ k ih =>
    intro s t h
    obtain ⟨u, hstep, hrest⟩ := stepN_succ_eq_some h
    have hfirst := step_length_ls hstep
    have hrest := ih u t hrest
    rw [countSteps_succ _ k hstep, countSteps_succ _ k hstep]
    omega

end Sys2Proof.Machine
end

section
/-! Runs and the host (10_state.md R25 to R28, 70_reset_and_hazards.md R130 to R135): the start of a run, what every
reached state keeps, reset after a run, and the result. -/
namespace Sys2Proof.Machine

/-! ### The start of a run -/

/-- Settles O49: a run starts with the fields of `State.reset`, but for the build, the program and the source. -/
theorem resetValues : Obligations.ResetValues :=
  fun _ _ _ => ⟨Memory.read_nil, rfl, rfl, rfl, rfl, rfl, rfl, rfl, rfl, rfl⟩

theorem startRun_inv {b : BuildParams} {prog : List Byte} (src : InputSource)
    (hfits : b.progLenMax.holds prog.length = true) : (startRun b prog src).Inv where
  tapeWf := State.reset_tape_wf
  pcLe := Nat.zero_le _
  loopStack := rfl
  status := ⟨rfl, rfl⟩
  depthFits := Capacity.holds_zero _
  progFits := hfits

theorem load?_eq_some {b : BuildParams} {prog : List Byte} {src : InputSource} {s : State}
    (h : load? b prog src = some s) : b.progLenMax.holds prog.length = true ∧ s = startRun b prog src := by
  by_cases hfits : b.progLenMax.holds prog.length = true
  · rw [load?_of_holds src hfits] at h
    exact ⟨hfits, (Option.some.inj h).symm⟩
  · simp [load?_of_not_holds src hfits] at h

theorem load?_inv {b : BuildParams} {prog : List Byte} {src : InputSource} {s : State}
    (h : load? b prog src = some s) : s.Inv := by
  obtain ⟨hfits, rfl⟩ := load?_eq_some h
  exact startRun_inv src hfits

/-- Settles O46: `State.reset` is the start of a run of the empty program in the reference build. -/
theorem resetAndLoadMeetTheInvariant : Obligations.ResetAndLoadMeetTheInvariant :=
  ⟨startRun_inv (b := .reference) (prog := []) (.buffer []) rfl, fun _ _ _ _ => load?_inv⟩

/-! ### Every reached state -/

/-- What holds at the start and is kept by every step holds in every reached state. -/
theorem Reaches.of_invariant {P : State → Prop} {s t : State} (hrun : Reaches s t) (hstart : P s)
    (hstep : ∀ u v, P u → step u = .next v → P v) : P t := by
  induction hrun with
  | refl => exact hstart
  | tail _ h ih => exact hstep _ _ ih h

theorem Reaches.inv {s t : State} (hrun : Reaches s t) (h : s.Inv) : t.Inv :=
  hrun.of_invariant h stepKeepsTheInvariant

theorem Reaches.prog_eq {s t : State} (hrun : Reaches s t) : t.prog = s.prog :=
  hrun.of_invariant (P := fun u => u.prog = s.prog) rfl fun _ _ h hstep => (step_prog_eq hstep).trans h

theorem Reaches.build_eq {s t : State} (hrun : Reaches s t) : t.build = s.build :=
  hrun.of_invariant (P := fun u => u.build = s.build) rfl fun _ _ h hstep => (step_build_eq hstep).trans h

/-- Settles O47. -/
theorem everyReachedStateMeetsTheInvariant : Obligations.EveryReachedStateMeetsTheInvariant := by
  intro b prog src s t hload hrun
  obtain ⟨hfits, rfl⟩ := load?_eq_some hload
  exact ⟨hrun.inv (startRun_inv src hfits), hrun.prog_eq, hrun.build_eq⟩

/-- Settles O50: reset looks only at the program and the build, which a run keeps. -/
theorem resetAfterAnyRunGivesTheSameStart : Obligations.ResetAfterAnyRunGivesTheSameStart := by
  intro b prog src t hrun
  have hprog : t.prog = prog := hrun.prog_eq
  have hbuild : t.build = b := hrun.build_eq
  rw [State.applyReset, hprog, hbuild]

/-! ### The result -/

section
variable {s : State}

theorem State.result?_of_running (h : s.status = .running) : s.result? = none := by
  simp [State.result?, State.terminal, h]

/-- The result of a state, read from its registers and the environment (70_reset_and_hazards.md R134). -/
def State.finalResult (s : State) : RunResult :=
  { status := s.status.code, faultKind := s.faultKind.code, faultPc := s.faultPc, output := s.output
    consumed := s.pulled.length, tape := s.tape, dp := BitVec.ofNat 15 s.dp.val, pc := s.pc, ls := s.ls }

theorem State.result?_of_terminal (h : s.status ≠ .running) : s.result? = some s.finalResult := by
  simp [State.result?, State.terminal, h, State.finalResult]

/-- A Data Pointer fits the 15 bits it is read as. -/
theorem State.finalResult_dp_toNat (s : State) : s.finalResult.dp.toNat = s.dp.val := by
  have hlt : s.dp.val < 2 ^ 15 := s.dp.isLt.trans (by decide)
  exact Nat.mod_eq_of_lt hlt

theorem FaultKind.code_ne_zero {k : FaultKind} (h : k ≠ .none) : k.code ≠ 0#2 := by
  cases k with
  | none => exact absurd rfl h
  | malformedProgram | inputExhausted | nestingLimitExceeded => decide

end

/-- Settles O52: `StatusInv` gives what each terminal status says of the fault registers and of `pc`. -/
theorem resultIsReadOnlyAtTheEnd : Obligations.ResultIsReadOnlyAtTheEnd := by
  intro s h
  refine ⟨State.result?_of_running, fun hhalted => ?_, fun hfaulted => ?_⟩
  · obtain ⟨hkind, -, hpc⟩ := (State.statusInv_iff_of_halted hhalted).mp h.status
    exact ⟨s.finalResult, State.result?_of_terminal (by simp [hhalted]), congrArg Status.code hhalted,
      congrArg FaultKind.code hkind, hpc, rfl, rfl, rfl, s.finalResult_dp_toNat, rfl⟩
  · obtain ⟨hpc, hcause⟩ := (State.statusInv_iff_of_faulted hfaulted).mp h.status
    exact ⟨s.finalResult, State.result?_of_terminal (by simp [hfaulted]), congrArg Status.code hfaulted,
      FaultKind.code_ne_zero hcause.faultKind_ne_none, hpc, rfl, rfl, rfl, rfl, s.finalResult_dp_toNat, rfl⟩

end Sys2Proof.Machine
end

section
/-! The memory spaces (20_memory.md): what a canonical tape lists (R32), the input source's answers and how a buffer is
consumed (R36), and the output (R37). -/
namespace Sys2Proof.Machine

/-! ### The tape -/

theorem Memory.mem_of_read_ne_unlisted {m : Memory} {a : Nat} (h : Memory.read m a ≠ Memory.unlisted) :
    (a, Memory.read m a) ∈ m := by
  induction m with
  | nil => exact absurd rfl h
  | cons c m ih =>
    obtain ⟨k, w⟩ := c
    rw [Memory.read_cons] at h ⊢
    split_ifs at h ⊢ with hk
    · rw [hk]
      exact List.mem_cons_self
    · exact List.mem_cons_of_mem _ (ih h)

/-- With the indices rising, no earlier entry hides a listed one. -/
theorem Memory.read_eq_of_mem {m : Memory} {a : Nat} {v : Byte} (hm : m.Pairwise fun c d => c.1 < d.1)
    (h : (a, v) ∈ m) : Memory.read m a = v := by
  induction hm with
  | nil => cases h
  | @cons c m hhead _ ih =>
    rw [Memory.read_cons]
    rcases List.mem_cons.mp h with rfl | htail
    · exact if_pos rfl
    · rw [if_neg (hhead _ htail).ne, ih htail]

/-- A canonical tape lists exactly the cells that read other than an unlisted one, each with its value. -/
theorem Memory.mem_iff_read {m : Memory} (hwf : Memory.wf m) {a : Nat} {v : Byte} :
    (a, v) ∈ m ↔ a < 30000 ∧ v ≠ Memory.unlisted ∧ Memory.read m a = v := by
  obtain ⟨hrising, hentries⟩ := hwf
  constructor
  · intro h
    obtain ⟨hlt, hne⟩ := hentries _ h
    exact ⟨hlt, hne, Memory.read_eq_of_mem hrising h⟩
  · rintro ⟨-, hne, rfl⟩
    exact Memory.mem_of_read_ne_unlisted hne

/-- Settles O43: the two tapes have the same entries by `mem_iff_read`, and a strictly rising list is determined by its
entries. -/
theorem canonicalTapesAreEqualWhenTheyReadEqual : Obligations.CanonicalTapesAreEqualWhenTheyReadEqual := by
  intro m m' hwf hwf' hread
  have hasymm : Std.Asymm fun c d : Host.Cell => c.1 < d.1 := InvImage.asymm Prod.fst
  refine hwf.1.eq_of_mem_iff hwf'.1 fun ⟨a, v⟩ => ?_
  rw [Memory.mem_iff_read hwf, Memory.mem_iff_read hwf']
  exact and_congr_right fun ha => by rw [hread a ha]

/-! ### The input source -/

theorem InputSource.pull_buffer_ne_notReady (bs : List Byte) : (InputSource.buffer bs).pull.1 ≠ .notReady := by
  rw [InputSource.pull_buffer]
  cases bs with
  | nil => nofun
  | cons b rest => nofun

/-- Settles O22: a source that answers Exhausted is a fixed point of the pull. -/
theorem inPullAnswers : Obligations.InPullAnswers := by
  refine ⟨fun b rest => InputSource.pull_buffer (b :: rest), InputSource.pull_buffer_ne_notReady, rfl,
    fun src k hexhausted => ?_⟩
  have hfixed : src.pull.2 = src := InputSource.pull_exhausted (Prod.ext hexhausted rfl)
  rw [Function.iterate_fixed (f := fun i : InputSource => i.pull.2) hfixed]
  exact hexhausted

section
variable {s t : State} {i : Instr}

/-- An instruction takes nothing from a buffer, or it moves the byte at the head to the end of what is consumed. -/
theorem Effect.buffer_cases {bs : List Byte} (h : Effect s i t) (hin : s.input = .buffer bs) :
    (t.input = .buffer bs ∧ t.pulled = s.pulled) ∨
    ∃ b rest, bs = b :: rest ∧ t.input = .buffer rest ∧ t.pulled = s.pulled ++ [b] := by
  cases h with
  | @inputByte b answer =>
    cases bs with
    | nil => simp [hin, InputSource.pull_buffer] at answer
    | cons head rest =>
      obtain rfl : head = b := by simpa [hin, InputSource.pull_buffer] using answer
      exact .inr ⟨head, rest, rfl, by simp [hin, InputSource.pull_buffer], rfl⟩
  | inputStall answer => exact absurd (hin ▸ answer) (InputSource.pull_buffer_ne_notReady bs)
  | _ => exact .inl ⟨hin, rfl⟩

/-- Settles O23. -/
theorem bufferIsConsumedInOrder : Obligations.BufferIsConsumedInOrder := by
  intro s t bs hstep hin
  obtain ⟨-, ⟨-, rfl⟩ | ⟨c, -, heffect⟩⟩ := step_eq_next_iff.mp hstep
  · exact ⟨bs, hin, rfl⟩
  · rcases heffect.buffer_cases hin with ⟨hinput, hpulled⟩ | ⟨b, rest, rfl, hinput, hpulled⟩
    · exact ⟨bs, hinput, by rw [hpulled]⟩
    · exact ⟨rest, hinput, by rw [hpulled, List.append_assoc, List.singleton_append]⟩

end

/-! ### The output -/

theorem decode_eq_output_iff {c : Byte} : decode c = .output ↔ c = 0x2E#8 := by
  refine ⟨fun h => ?_, fun h => h ▸ rfl⟩
  rw [← encode_decode c, h, encode]

/-- Settles O24: what an instruction appends is `appendedOutput`, and only 0x2E decodes to OUT. -/
theorem outputIsAppendOnly : Obligations.OutputIsAppendOnly := by
  intro s t hstep
  obtain ⟨-, ⟨hf, rfl⟩ | ⟨c, hf, heffect⟩⟩ := step_eq_next_iff.mp hstep
  · simp [hf]
  · rw [heffect.output_eq, appendedOutput, hf]
    simp only [decode_eq_output_iff, Option.some.injEq]
    split_ifs
    · rfl
    · exact List.append_nil _

end Sys2Proof.Machine
end

section
/-! The decoder and the encoder as inverses (30_encoding.md R52, R54), and the presentation of wider characters (R55).
Everything turns on one question about a code: is it one of the eight of R51? -/
namespace Sys2Proof

/-! ### One code -/

theorem isInstructionCode_eq_true_iff {c : Byte} : isInstructionCode c = true ↔ c ∈ instructionCodes :=
  List.contains_iff_mem

theorem Instr.wellFormed_nop_iff {c : Byte} : (Instr.nop c).wellFormed = true ↔ c ∉ instructionCodes := by
  rw [Instr.wellFormed, Bool.not_eq_true', ← Bool.not_eq_true, isInstructionCode_eq_true_iff]

end Sys2Proof

namespace Sys2Proof.Machine

theorem decode_eq_nop_of_notMem {c : Byte} (h : c ∉ instructionCodes) : decode c = .nop c := by
  simp only [instructionCodes, List.mem_cons, List.not_mem_nil, or_false, not_or] at h
  simp [decode, h]

/-- Settles O1: the eight by evaluation, the others because they are not in `instructionCodes`. -/
theorem eightCodesDecodeOthersAreNop : Obligations.EightCodesDecodeOthersAreNop := by
  refine ⟨by decide, fun c h₁ h₂ h₃ h₄ h₅ h₆ h₇ h₈ => decode_eq_nop_of_notMem ?_⟩
  simp [instructionCodes, h₁, h₂, h₃, h₄, h₅, h₆, h₇, h₈]

theorem decode_wellFormed (c : Byte) : (decode c).wellFormed = true := by
  by_cases hc : c ∈ instructionCodes
  · have hcodes : ∀ c ∈ instructionCodes, (decode c).wellFormed = true := by decide
    exact hcodes c hc
  · rw [decode_eq_nop_of_notMem hc]
    exact Instr.wellFormed_nop_iff.mpr hc

theorem decode_encode {i : Instr} (h : i.wellFormed = true) : decode (encode i) = i := by
  cases i with
  | nop c => exact decode_eq_nop_of_notMem (Instr.wellFormed_nop_iff.mp h)
  | _ => rfl

/-- Settles O2: the head of a stream is decoded as the character alone is, by `decode_encode`. -/
theorem decodeOfEncodeIsTheInstruction : Obligations.DecodeOfEncodeIsTheInstruction := by
  refine fun i hi => ⟨decode_encode hi, fun rest => ?_⟩
  rw [decodeBytes, decode_encode hi]

/-- Settles O3: `decode` and `encode` are inverse to each other on the well-formed instructions. -/
theorem everyCodeEncodesExactlyOneInstruction : Obligations.EveryCodeEncodesExactlyOneInstruction := by
  refine fun c => ⟨decode_wellFormed c, encode_decode c, fun i hi hcode => ?_⟩
  rw [← hcode, decode_encode hi]

/-! ### Characters of any width -/

/-- The eight instruction characters, as full-width codes (30_encoding.md R51, R55). -/
def instructionChars : List Nat := instructionCodes.map BitVec.toNat

theorem instructionChars_eq : instructionChars = [0x2B, 0x2D, 0x3E, 0x3C, 0x2E, 0x2C, 0x5B, 0x5D] := rfl

theorem toNat_mem_instructionChars_iff {c : Byte} : c.toNat ∈ instructionChars ↔ c ∈ instructionCodes :=
  List.mem_map_of_injective fun _ _ => BitVec.eq_of_toNat_eq

theorem toNat_presentChar_of_lt {n : Nat} (h : n < 256) : (presentChar n).toNat = n := by
  rw [presentChar, if_pos h, BitVec.toNat_ofNat, Nat.mod_eq_of_lt h]

theorem presentChar_notMem_of_le {n : Nat} (h : 256 ≤ n) : presentChar n ∉ instructionCodes := by
  rw [presentChar, if_neg h.not_gt]
  split_ifs with hfree
  · decide
  · exact fun hmem => hfree (isInstructionCode_eq_true_iff.mpr hmem)

/-- Presenting a character on 8 bits makes no instruction of a comment. -/
theorem presentChar_notMem {n : Nat} (h : n ∉ instructionChars) : presentChar n ∉ instructionCodes := by
  rcases lt_or_ge n 256 with hn | hn
  · rwa [← toNat_mem_instructionChars_iff, toNat_presentChar_of_lt hn]
  · exact presentChar_notMem_of_le hn

theorem decodeChar_eq_nop_of_notMem {n : Nat} (h : n ∉ instructionChars) : decodeChar n = .nop (presentChar n) := by
  simp only [instructionChars_eq, List.mem_cons, List.not_mem_nil, or_false, not_or] at h
  simp [decodeChar, h]

theorem decode_presentChar (n : Nat) : decode (presentChar n) = decodeChar n := by
  by_cases hn : n ∈ instructionChars
  · have hchars : ∀ n ∈ instructionChars, decode (presentChar n) = decodeChar n := by decide
    exact hchars n hn
  · rw [decodeChar_eq_nop_of_notMem hn, decode_eq_nop_of_notMem (presentChar_notMem hn)]

/-- Settles O4: position by position, the presented stream decodes by `decode_presentChar`. -/
theorem wideCharactersAreCommentsInPlace : Obligations.WideCharactersAreCommentsInPlace := by
  refine ⟨fun n hn => ⟨presentChar n, decodeChar_eq_nop_of_notMem hn⟩, fun chars p => ?_⟩
  rw [presentProgram, List.getElem?_map, Option.map_map]
  exact Option.map_congr fun n _ => decode_presentChar n

end Sys2Proof.Machine
end

section
/-! The step cycle (40_step_cycle.md): when a step exists (R65), what it is at a character (R68) and at the end of the
stream (R66), where it leaves `pc` (R69), and the state that repeats itself for ever (R72). -/
namespace Sys2Proof.Machine
variable {s t : State}

/-! ### One step -/

/-- Settles O5. -/
theorem stepRunsTheDecodedInstruction : Obligations.StepRunsTheDecodedInstruction :=
  fun _ _ => step_running

/-- Settles O6: at `L ≤ pc` there is no character to fetch, and the halt transition writes STATUS alone. -/
theorem haltTransitionOnlySetsStatus : Obligations.HaltTransitionOnlySetsStatus :=
  fun _ hrun hend => step_of_fetch_none hrun (State.fetch_eq_none.mpr hend)

theorem status_running_of_step (h : step s = .next t) : s.status = .running :=
  (step_cases h).1

theorem exists_step_of_running (hrun : s.status = .running) : ∃ t, step s = .next t := by
  cases hf : s.fetch with
  | none => exact ⟨s.halt, step_of_fetch_none hrun hf⟩
  | some c =>
    obtain ⟨t, hexec, -⟩ := exists_exec_effect (decode c) s
    exact ⟨t, (step_running hrun hf).trans hexec⟩

/-- Settles O7: every instruction has an effect in every state, so a running state has a next one. -/
theorem stepExistsExactlyWhenRunning : Obligations.StepExistsExactlyWhenRunning :=
  fun _ => ⟨fun ⟨_, hstep⟩ => status_running_of_step hstep, exists_step_of_running⟩

/-- Settles O39: of the runs from a terminal state only the one of no steps exists. -/
theorem terminalStatusTakesNoStep : Obligations.TerminalStatusTakesNoStep := by
  intro s hterminal
  have hnostep : ∀ t, step s ≠ .next t := fun t hstep => hterminal (status_running_of_step hstep)
  refine ⟨hnostep, fun k t h => ?_⟩
  cases k with
  | zero => exact (Option.some.inj h).symm
  | succ k =>
    obtain ⟨u, hstep, -⟩ := stepN_succ_eq_some h
    exact absurd hstep (hnostep u)

/-! ### The Program Counter -/

/-- Settles O8, end by end: three faults, the stall, the loop-back, and the ends that advance, of which only that of IN
and that of CLOSE have a condition to report. -/
theorem programCounterAdvance : Obligations.ProgramCounterAdvance := by
  intro i s t hrun hexec
  have heffect : Effect s i t := exec_eq_next_iff.mp hexec
  cases heffect with
  | inputEnd | openFull | closeEmpty => exact .inl ⟨rfl, rfl⟩
  | inputStall answer => exact .inr (.inl ⟨hrun, rfl, answer, rfl⟩)
  | closeBack stack nonzero => exact .inr (.inr (.inl ⟨hrun, rfl, nonzero, _, _, stack, rfl⟩))
  | closePop stack zero => exact .inr (.inr (.inr ⟨hrun, rfl, fun _ => zero, nofun⟩))
  | inputByte answer => exact .inr (.inr (.inr ⟨hrun, rfl, nofun, fun _ => ⟨_, answer⟩⟩))
  | _ => exact .inr (.inr (.inr ⟨hrun, rfl, nofun, nofun⟩))

/-! ### The self-loop -/

theorem State.jump_eq_self {p : Nat} (h : s.pc = p) : s.jump p = s := by
  subst h
  rfl

/-- A state that steps to itself is where every run from it ends. -/
theorem stepN_eq_self (h : step s = .next s) (k : Nat) : stepN k s = some s := by
  induction k with
  | zero => rfl
  | succ k ih => simp only [stepN, h, ih]

/-- Settles O9: the loop-back goes to `top(ls) + 1`, where `pc` already is. -/
theorem emptyBodyWithNonZeroCellLoopsForEver : Obligations.EmptyBodyWithNonZeroCellLoopsForEver := by
  intro s l q hrun hf hstack hpc hnonzero
  have heffect : Effect s .closeLoop s := by
    simpa only [State.jump_eq_self hpc] using Effect.closeBack hstack hnonzero
  exact stepN_eq_self (step_eq_next_iff.mpr ⟨hrun, .inr ⟨0x5D#8, hf, heffect⟩⟩)

end Sys2Proof.Machine
end

section
/-! Cell arithmetic (41_cell_arithmetic.md): the increment and the decrement of a byte as inverses and their iterates (R78),
and what INC and DEC do to the state (R75, R76). Both instructions store one byte in the current cell and advance. -/
namespace Sys2Proof.Machine

/-! ### Bytes -/

theorem aluDec_aluInc (v : Byte) : aluDec (aluInc v) = v := BitVec.add_sub_cancel v 1#8

theorem aluInc_aluDec (v : Byte) : aluInc (aluDec v) = v := BitVec.sub_add_cancel v 1#8

theorem aluInc_iterate_toNat (n : Nat) (v : Byte) : (aluInc^[n] v).toNat = (v.toNat + n) % 256 := by
  induction n with
  | zero => exact (Nat.mod_eq_of_lt v.isLt).symm
  | succ n ih => rw [Function.iterate_succ_apply', aluInc_toNat, ih, Nat.mod_add_mod, Nat.add_assoc]

theorem aluInc_iterate_256 (v : Byte) : aluInc^[256] v = v := by
  apply BitVec.eq_of_toNat_eq
  rw [aluInc_iterate_toNat, Nat.add_mod_right, Nat.mod_eq_of_lt v.isLt]

theorem aluDec_iterate_256 (v : Byte) : aluDec^[256] v = v := by
  have hundo : aluDec^[256] (aluInc^[256] v) = v := Function.LeftInverse.iterate aluDec_aluInc 256 v
  rwa [aluInc_iterate_256] at hundo

theorem aluInc_iterate_eq_zero_iff (k : Nat) (v : Byte) : aluInc^[k] v = 0#8 ↔ k % 256 = (256 - v.toNat) % 256 := by
  have hv : v.toNat < 256 := v.isLt
  rw [← BitVec.toNat_inj, aluInc_iterate_toNat, BitVec.toNat_zero]
  omega

/-- Settles O12: the single steps away from the wrap by `aluInc_toNat` and `aluDec_toNat`, at the wrap by evaluation, the
iterates by the lemmas above. -/
theorem cellArithmeticLaws : Obligations.CellArithmeticLaws := by
  refine ⟨fun v hv => ?_, rfl, fun v hv => ?_, rfl, fun v => ⟨aluDec_aluInc v, aluInc_aluDec v⟩, aluInc_iterate_toNat,
    fun v => ⟨aluInc_iterate_256 v, aluDec_iterate_256 v⟩, aluInc_iterate_eq_zero_iff⟩
  · rw [aluInc_toNat]
    omega
  · have hlt : v.toNat < 256 := v.isLt
    rw [aluDec_toNat]
    omega

/-! ### One store and the advance -/

@[simp] theorem State.cell_advance (s : State) : s.advance.cell = s.cell := rfl

@[simp] theorem State.cell_setCell (s : State) (v : Byte) : (s.setCell v).cell = v := by
  rw [State.cell, State.setCell_tape, State.setCell_dp, Memory.read_write, if_pos rfl]

theorem State.read_setCell_of_ne {s : State} {a : Nat} (v : Byte) (ha : a ≠ s.dp.val) :
    Memory.read (s.setCell v).tape a = Memory.read s.tape a := by
  rw [State.setCell_tape, Memory.read_write, if_neg ha.symm]

/-- Settles O10. -/
theorem incAddsOneModulo256 : Obligations.IncAddsOneModulo256 := by
  refine ⟨rfl, fun s => ⟨_, exec_inc s, ?_, fun a => State.read_setCell_of_ne _, rfl⟩⟩
  have hcell : (s.setCell (aluInc s.cell)).cell = aluInc s.cell := s.cell_setCell _
  exact (congrArg BitVec.toNat hcell).trans (aluInc_toNat s.cell)

/-- Settles O11. -/
theorem decSubtractsOneModulo256 : Obligations.DecSubtractsOneModulo256 := by
  refine ⟨rfl, fun s => ⟨_, exec_dec s, ?_, fun a => State.read_setCell_of_ne _, rfl⟩⟩
  have hcell : (s.setCell (aluDec s.cell)).cell = aluDec s.cell := s.cell_setCell _
  exact (congrArg BitVec.toNat hcell).trans (aluDec_toNat s.cell)

/-! ### A store undone -/

/-- Writing a cell's own value back restores the list that holds the tape: both lists are canonical and read alike. -/
theorem Memory.write_write_read {m : Memory} (hwf : Memory.wf m) {a : Nat} (ha : a < 30000) (v : Byte) :
    Memory.write (Memory.write m a v) a (Memory.read m a) = m := by
  have hback : Memory.wf (Memory.write (Memory.write m a v) a (Memory.read m a)) :=
    Memory.write_wf (Memory.write_wf hwf ha v) ha _
  refine canonicalTapesAreEqualWhenTheyReadEqual _ _ hback hwf fun b _ => ?_
  rw [Memory.read_write, Memory.read_write]
  split_ifs with hab
  · rw [hab]
  · rfl

theorem State.setCell_advance_restore {s : State} (hwf : Memory.wf s.tape) (v : Byte) :
    ((s.setCell v).advance.setCell s.cell).advance = { s with pc := s.pc + 2 } := by
  have htape : ((s.setCell v).advance.setCell s.cell).tape = s.tape := Memory.write_write_read hwf s.dp.isLt v
  exact congrArg (fun m => { s with tape := m, pc := s.pc + 2 }) htape

/-- Settles O13: the second instruction computes the old value of the cell and stores it back. -/
theorem incAndDecUndoEachOther : Obligations.IncAndDecUndoEachOther := by
  rintro s t u hwf (⟨hinc, hdec⟩ | ⟨hdec, hinc⟩)
  · cases exec_eq_next_iff.mp hinc
    cases exec_eq_next_iff.mp hdec
    rw [State.cell_advance, State.cell_setCell, aluDec_aluInc, State.setCell_advance_restore hwf]
  · cases exec_eq_next_iff.mp hdec
    cases exec_eq_next_iff.mp hinc
    rw [State.cell_advance, State.cell_setCell, aluInc_aluDec, State.setCell_advance_restore hwf]

end Sys2Proof.Machine
end

section
/-! Pointer movement (42_pointer_movement.md): the right and the left pointer step as inverses and their iterates (R82), and
what RIGHT and LEFT do to the state (R80, R81). -/
namespace Sys2Proof.Machine

/-! ### Data Pointers -/

theorem pointerRight_pointerLeft (d : DataPointer) : pointerRight (pointerLeft d) = d := by
  apply Fin.ext
  have hd : d.val < 30000 := d.isLt
  rw [pointerRight_val, pointerLeft_val]
  omega

theorem pointerLeft_pointerRight (d : DataPointer) : pointerLeft (pointerRight d) = d := by
  apply Fin.ext
  have hd : d.val < 30000 := d.isLt
  rw [pointerLeft_val, pointerRight_val]
  omega

theorem pointerRight_iterate_val (n : Nat) (d : DataPointer) : (pointerRight^[n] d).val = (d.val + n) % 30000 := by
  induction n with
  | zero => exact (Nat.mod_eq_of_lt d.isLt).symm
  | succ n ih => rw [Function.iterate_succ_apply', pointerRight_val, ih, Nat.mod_add_mod, Nat.add_assoc]

theorem pointerLeft_iterate_val (n : Nat) (d : DataPointer) :
    ((pointerLeft^[n] d).val : Int) = ((d.val : Int) - n) % 30000 := by
  induction n with
  | zero =>
    have hd : d.val < 30000 := d.isLt
    rw [Function.iterate_zero_apply]
    omega
  | succ n ih =>
    rw [Function.iterate_succ_apply', pointerLeft_val]
    omega

theorem pointerRight_iterate_30000 (d : DataPointer) : pointerRight^[30000] d = d := by
  apply Fin.ext
  rw [pointerRight_iterate_val, Nat.add_mod_right, Nat.mod_eq_of_lt d.isLt]

theorem pointerLeft_iterate_30000 (d : DataPointer) : pointerLeft^[30000] d = d := by
  have hundo : pointerLeft^[30000] (pointerRight^[30000] d) = d :=
    Function.LeftInverse.iterate pointerLeft_pointerRight 30000 d
  rwa [pointerRight_iterate_30000] at hundo

/-- Settles O16. -/
theorem pointerStepLaws : Obligations.PointerStepLaws :=
  ⟨fun d => ⟨pointerRight_pointerLeft d, pointerLeft_pointerRight d⟩, pointerRight_iterate_val, pointerLeft_iterate_val,
    fun d => ⟨pointerRight_iterate_30000 d, pointerLeft_iterate_30000 d⟩⟩

/-! ### The two instructions -/

/-- Settles O14. -/
theorem rightMovesModulo30000 : Obligations.RightMovesModulo30000 :=
  ⟨rfl, fun s => ⟨_, exec_right s, pointerRight_val s.dp, rfl⟩⟩

/-- Settles O15. -/
theorem leftMovesModulo30000 : Obligations.LeftMovesModulo30000 :=
  ⟨rfl, fun s => ⟨_, exec_left s, pointerLeft_val s.dp, rfl⟩⟩

end Sys2Proof.Machine
end

section
/-! Input and output (43_io.md): OUT (R85), and IN for each of the source's three answers, a byte (R86), a stall (R87)
and the end (R88); and the stalls of a live source, which leave no trace but in its schedule. -/
namespace Sys2Proof.Machine
variable {s : State} {src : InputSource}

/-! ### OUT -/

/-- Settles O17. -/
theorem outAppendsTheCurrentCell : Obligations.OutAppendsTheCurrentCell :=
  ⟨rfl, exec_output⟩

/-! ### IN, answer by answer -/

theorem exec_input_of_byte {b : Byte} (h : s.input.pull = (.byte b, src)) :
    exec .input s = .next ((s.consume b src).setCell b).advance := by
  obtain ⟨hanswer, rfl⟩ := Prod.ext_iff.mp h
  exact exec_eq_next_iff.mpr (.inputByte hanswer)

theorem exec_input_of_notReady (h : s.input.pull = (.notReady, src)) : exec .input s = .next (s.setInput src) := by
  obtain ⟨hanswer, rfl⟩ := Prod.ext_iff.mp h
  exact exec_eq_next_iff.mpr (.inputStall hanswer)

theorem exec_input_of_exhausted (h : s.input.pull = (.exhausted, src)) :
    exec .input s = .next (s.raise .inputExhausted) :=
  exec_eq_next_iff.mpr (.inputEnd (Prod.ext_iff.mp h).1)

/-- Settles O18: the byte is stored at `dp`, which consuming it does not move. -/
theorem inStoresTheDeliveredByte : Obligations.InStoresTheDeliveredByte :=
  ⟨rfl, fun s b src hpull => ⟨_, exec_input_of_byte hpull, (s.consume b src).cell_setCell b,
    fun _ => State.read_setCell_of_ne (s := s.consume b src) b, rfl⟩⟩

/-- Settles O21. -/
theorem inFaultsOnExhaustedInput : Obligations.InFaultsOnExhaustedInput :=
  fun _ _ => exec_input_of_exhausted

/-! ### Stalls -/

/-- A free answer of a live source was never among the bytes already determined. -/
theorem InputSource.knownBytes_pull_live_nil (n : Nat) : (InputSource.live [] n).pull.2.knownBytes = [] := by
  simp only [InputSource.pull]
  split <;> rfl

theorem InputSource.knownBytes_of_pull_notReady {src' : InputSource} (h : src.pull = (.notReady, src')) :
    src'.knownBytes = src.knownBytes := by
  obtain ⟨hanswer, rfl⟩ := Prod.ext_iff.mp h
  cases src with
  | buffer bs => exact absurd hanswer (InputSource.pull_buffer_ne_notReady bs)
  | live script n =>
    cases script with
    | nil => exact InputSource.knownBytes_pull_live_nil n
    | cons answer rest =>
      cases answer with
      | notReady => rfl
      | byte | exhausted => cases hanswer

/-- Settles O19. -/
theorem inStallChangesNothing : Obligations.InStallChangesNothing :=
  fun _ _ hpull => ⟨exec_input_of_notReady hpull, InputSource.knownBytes_of_pull_notReady hpull⟩

theorem stepN_succ_of_step {t : State} (k : Nat) (h : step s = .next t) : stepN (k + 1) s = stepN k t := by
  simp only [stepN, h]

theorem step_input (hrun : s.status = .running) (hf : s.fetch = some 0x2C#8) : step s = exec .input s :=
  step_running hrun hf

/-- The first `k` steps at an IN whose source begins with `k` stalls only take these from the script. -/
theorem stepN_past_stalls {script : List InAnswer} {n : Nat} (k j : Nat) (hrun : s.status = .running)
    (hf : s.fetch = some 0x2C#8) (hin : s.input = .live (List.replicate k .notReady ++ script) n) :
    stepN (k + j) s = stepN j (s.setInput (.live script n)) := by
  induction k generalizing s with
  | zero =>
    have hself : s.setInput (.live script n) = s := congrArg s.setInput hin.symm
    rw [Nat.zero_add, hself]
  | succ k ih =>
    have hpull : s.input.pull = (.notReady, .live (List.replicate k .notReady ++ script) n) := by rw [hin]; rfl
    have hstall : step s = .next (s.setInput (.live (List.replicate k .notReady ++ script) n)) :=
      (step_input hrun hf).trans (exec_input_of_notReady hpull)
    rw [Nat.succ_add, stepN_succ_of_step _ hstall]
    exact ih hrun hf rfl

/-- Settles O20: past the stalls stands the very state in which the byte is served at once, and the last step serves
it. -/
theorem stallsEndAsIfServedAtOnce : Obligations.StallsEndAsIfServedAtOnce := by
  intro k n b rest s hrun hf hin
  have hserve := exec_input_of_byte (s := s.setInput (.live (.byte b :: rest) n)) rfl
  have hstep := (step_input (s := s.setInput (.live (.byte b :: rest) n)) hrun hf).trans hserve
  exact ⟨_, (stepN_past_stalls k 1 hrun hf hin).trans (stepN_succ_of_step 0 hstep), hserve, rfl⟩

end Sys2Proof.Machine
end

section
/-! Loop control (44_loop_control.md): OPEN (R93, R94), CLOSE (R95 to R97), and a bounded Loop Stack with room for every `[`
of the program (R102). -/
namespace Sys2Proof.Machine
variable {s t : State} {i : Instr}

/-! ### The two instructions -/

/-- Settles O27. -/
theorem openPushesItsPosition : Obligations.OpenPushesItsPosition :=
  ⟨rfl, fun _ hroom => exec_eq_next_iff.mpr (.openPush hroom)⟩

/-- Settles O28. -/
theorem openFaultsOnFullStack : Obligations.OpenFaultsOnFullStack :=
  fun _ hfull => exec_eq_next_iff.mpr (.openFull hfull)

/-- Settles O29. -/
theorem closeExitsOnZero : Obligations.CloseExitsOnZero :=
  ⟨rfl, fun _ _ _ hstack hzero => exec_eq_next_iff.mpr (.closePop hstack hzero)⟩

/-- Settles O30: an entry of the stack is before `pc`, and `pc` is before the end of the stream where a CLOSE is fetched. -/
theorem closeLoopsBackOnNonZero : Obligations.CloseLoopsBackOnNonZero := by
  refine ⟨fun s l q hstack hnonzero => exec_eq_next_iff.mpr (.closeBack hstack hnonzero), fun s l q h hf hstack => ?_⟩
  have hbackward : q + 1 ≤ s.pc := h.top_lt hstack
  exact ⟨hbackward, hbackward.trans_lt (State.fetch_lt hf)⟩

/-- Settles O31. -/
theorem closeFaultsOnEmptyStack : Obligations.CloseFaultsOnEmptyStack :=
  fun _ hempty => exec_eq_next_iff.mpr (.closeEmpty hempty)

/-! ### A bounded stack with room for every `[` -/

/-- At an OPEN, the `[` about to be pushed is one more than those on the stack. -/
theorem State.Inv.length_ls_lt_bracketCount (h : s.Inv) (hf : s.fetch = some 0x5B#8) :
    s.ls.length < bracketCount s.prog := by
  have hopen : s.prog[s.pc]? = some 0x5B#8 := hf
  calc s.ls.length
    _ ≤ charCount s.prog 0x5B#8 0 s.pc := h.loopStack ▸ length_unmatchedOpens_le s.prog s.pc
    _ < charCount s.prog 0x5B#8 0 (s.pc + 1) := by simp [charCount_succ _ s.pc.zero_le, hopen]
    _ ≤ bracketCount s.prog := charCount_le_count _

theorem State.Inv.not_full_at_open {N : Nat} (h : s.Inv) (hdepth : s.build.loopStackDepth = .bounded N)
    (hroomy : bracketCount s.prog ≤ N) (hf : s.fetch = some 0x5B#8) :
    s.build.loopStackDepth ≠ .bounded s.ls.length := by
  intro hfull
  have hN : N = s.ls.length := Capacity.bounded.inj (hdepth.symm.trans hfull)
  have hlt := h.length_ls_lt_bracketCount hf
  omega

theorem State.StatusInv.faultCause (h : s.StatusInv) (hkind : s.faultKind ≠ .none) : s.FaultCause := by
  cases hstatus : s.status with
  | running => exact absurd ((State.statusInv_iff_of_running hstatus).mp h).1 hkind
  | halted => exact absurd ((State.statusInv_iff_of_halted hstatus).mp h).1 hkind
  | faulted => exact ((State.statusInv_iff_of_faulted hstatus).mp h).2

/-- The recorded fault would have a full stack at an OPEN as its cause. -/
theorem State.Inv.faultKind_ne_nestingLimitExceeded {N : Nat} (h : s.Inv)
    (hdepth : s.build.loopStackDepth = .bounded N) (hroomy : bracketCount s.prog ≤ N) :
    s.faultKind ≠ .nestingLimitExceeded := by
  intro hkind
  have hcause : s.FaultCause := h.status.faultCause (by simp [hkind])
  simp only [State.FaultCause, hkind] at hcause
  obtain ⟨hf, hfull⟩ := hcause
  exact h.not_full_at_open hdepth hroomy hf hfull

/-- Only OPEN looks at `LOOP_STACK_DEPTH`, and only at whether the stack is full. -/
theorem Effect.unbound (heffect : Effect s i t)
    (hroom : i = .openLoop → s.build.loopStackDepth ≠ .bounded s.ls.length) : Effect s.unbound i t.unbound := by
  cases heffect with
  | openFull full => exact absurd full (hroom rfl)
  | openPush => exact .openPush nofun
  | _ => constructor <;> assumption

/-- Settles O35: no OPEN finds the stack full, so each step is the unbounded one; and the state after it meets the invariant,
so that no full stack can be the cause of its fault. -/
theorem roomyBoundedStackActsUnbounded : Obligations.RoomyBoundedStackActsUnbounded := by
  intro N s t h hdepth hroomy hstep
  constructor
  · obtain ⟨hrun, ⟨hf, rfl⟩ | ⟨c, hf, heffect⟩⟩ := step_eq_next_iff.mp hstep
    · exact step_of_fetch_none hrun hf
    · have hroom : decode c = .openLoop → s.build.loopStackDepth ≠ .bounded s.ls.length := fun hopen =>
        h.not_full_at_open hdepth hroomy (decode_eq_openLoop_iff.mp hopen ▸ hf)
      exact step_eq_next_iff.mpr ⟨hrun, .inr ⟨c, hf, heffect.unbound hroom⟩⟩
  · have hinv : t.Inv := stepKeepsTheInvariant s t h hstep
    have hbuild : t.build = s.build := step_build_eq hstep
    have hprog : t.prog = s.prog := step_prog_eq hstep
    exact hinv.faultKind_ne_nestingLimitExceeded (hbuild ▸ hdepth) (hprog ▸ hroomy)

end Sys2Proof.Machine
end

section
/-! NOP (45_nop.md R103). -/
namespace Sys2Proof.Machine

/-- Settles O36: the codes the statement lists are `instructionCodes`, and NOP's one effect is the advance of `pc`. -/
theorem nopOnlyAdvances : Obligations.NopOnlyAdvances :=
  ⟨fun _ hother => decode_eq_nop_of_notMem hother, exec_nop⟩

end Sys2Proof.Machine
end

section
/-! Faults (60_exceptions.md): the table of R110 as a condition on the state and the instruction, fault entry (R115, R116),
and success (R119). -/
namespace Sys2Proof.Machine
variable {s t : State} {i : Instr} {k : FaultKind}

/-! ### The table -/

/-- The rows of the table of R110: when does instruction `i`, run in `s`, raise `k`? -/
def FaultRow (s : State) (i : Instr) : FaultKind → Prop
  | .none => False
  | .malformedProgram => i = .closeLoop ∧ s.ls = []
  | .inputExhausted => i = .input ∧ s.input.pull.1 = .exhausted
  | .nestingLimitExceeded => i = .openLoop ∧ s.build.loopStackDepth = .bounded s.ls.length

theorem FaultRow.ne_none (h : FaultRow s i k) : k ≠ .none := by
  rintro rfl
  exact h

theorem FaultRow.effect (h : FaultRow s i k) : Effect s i (s.raise k) := by
  cases k with
  | none => exact h.elim
  | malformedProgram =>
    obtain ⟨rfl, hempty⟩ := h
    exact .closeEmpty hempty
  | inputExhausted =>
    obtain ⟨rfl, hanswer⟩ := h
    exact .inputEnd hanswer
  | nestingLimitExceeded =>
    obtain ⟨rfl, hfull⟩ := h
    exact .openFull hfull

/-- Three of an instruction's ends are fault entries, each under the condition of its row; the others keep STATUS. -/
theorem Effect.exists_faultRow (h : Effect s i t) (hrun : s.status = .running) (hfaulted : t.status = .faulted) :
    ∃ k, FaultRow s i k ∧ t = s.raise k := by
  cases h with
  | inputEnd answer => exact ⟨.inputExhausted, ⟨rfl, answer⟩, rfl⟩
  | openFull full => exact ⟨.nestingLimitExceeded, ⟨rfl, full⟩, rfl⟩
  | closeEmpty empty => exact ⟨.malformedProgram, ⟨rfl, empty⟩, rfl⟩
  | _ => simp [hrun] at hfaulted

theorem Effect.faulted_with_kind_iff (h : Effect s i t) (hrun : s.status = .running) :
    t.status = .faulted ∧ t.faultKind = k ↔ FaultRow s i k := by
  constructor
  · rintro ⟨hfaulted, rfl⟩
    obtain ⟨k, hrow, rfl⟩ := h.exists_faultRow hrun hfaulted
    exact hrow
  · intro hrow
    obtain rfl : t = s.raise k := h.unique hrow.effect
    exact ⟨rfl, rfl⟩

/-- Settles O37: each row by `faulted_with_kind_iff`, and what a fault records by fault entry. -/
theorem faultsAreExactlyTheTable : Obligations.FaultsAreExactlyTheTable := by
  refine ⟨⟨rfl, rfl, rfl, rfl⟩, fun i s t hrun hexec => ?_⟩
  have heffect : Effect s i t := exec_eq_next_iff.mp hexec
  refine ⟨heffect.faulted_with_kind_iff hrun, heffect.faulted_with_kind_iff hrun, heffect.faulted_with_kind_iff hrun,
    fun hfaulted => ?_⟩
  obtain ⟨k, hrow, rfl⟩ := heffect.exists_faultRow hrun hfaulted
  exact ⟨hrow.ne_none, rfl⟩

/-! ### Fault entry -/

/-- Settles O38: the halt transition does not end FAULTED, and an instruction that does has only raised its fault. -/
theorem faultEntryWritesOnlyTheStatusRegisters : Obligations.FaultEntryWritesOnlyTheStatusRegisters := by
  intro s t hstep hfaulted
  obtain ⟨hrun, ⟨-, rfl⟩ | ⟨c, -, heffect⟩⟩ := step_eq_next_iff.mp hstep
  · simp at hfaulted
  · obtain ⟨k, hrow, rfl⟩ := heffect.exists_faultRow hrun hfaulted
    exact ⟨hrow.ne_none, rfl⟩

/-! ### Success -/

theorem State.succeeded_iff : s.succeeded = true ↔ s.status = .halted ∧ s.faultKind = .none := by
  simp [State.succeeded]

/-- Settles O53: under the invariant a HALTED state has no fault recorded, and a FAULTED state has the kind of its cause. -/
theorem successIsExactlyAHalt : Obligations.SuccessIsExactlyAHalt := by
  intro s h
  refine ⟨State.succeeded_iff.trans ⟨And.left, fun hhalted => ?_⟩, fun hfaulted => ⟨?_, ?_⟩⟩
  · obtain ⟨hkind, -⟩ := (State.statusInv_iff_of_halted hhalted).mp h.status
    exact ⟨hhalted, hkind⟩
  · simp [State.succeeded, hfaulted]
  · obtain ⟨-, hcause⟩ := (State.statusInv_iff_of_faulted hfaulted).mp h.status
    exact hcause.faultKind_ne_none

end Sys2Proof.Machine
end
